-- ==== Sys2Proof/Word.lean ====
section
/-! DEFINITION. The word types of the block: the byte, the 9-bit symbol word (30_encoding.md R60) and the
12-bit operation word (30_encoding.md R76). -/

namespace Sys2Proof

/-- A byte: 8 bits, unsigned value 0 to 255, bit 7 the most significant (00_scope.md R11). -/
abbrev Byte := BitVec 8

/-- A symbol as a fixed-width word, `eos ‖ data[7:0]` (30_encoding.md R60). -/
abbrev SymbolWord := BitVec 9

/-- The operation word `req[1:0] ‖ mode ‖ eos ‖ data[7:0]` (30_encoding.md R76). -/
abbrev OpWord := BitVec 12

end Sys2Proof
end

