-- ==== Sys2Proof/Config.lean ====
section
/-! DEFINITION. The implementation parameters of the block (00_scope.md R7): fixed before the first symbol, never
written by a step. Log entries 4, 14, 17, 22, 23. -/

namespace Sys2Proof

/-- How a line is compared with the marker literal (30_encoding.md R65; conflict C1; decision D4). -/
inductive MarkerMatch where
  /-- `Prefix`: the line equals or starts with the marker. This hardware's value. -/
  | prefixMatch
  /-- `Exact`: the line is the marker and nothing else. -/
  | exactMatch
deriving DecidableEq, Repr

/-- The parameters of 00_scope.md R7, one field each. -/
structure Config where
  /-- `DISPLAY_WIDTH`, pixels per row. -/
  width : Nat
  /-- `DISPLAY_HEIGHT`, rows. -/
  height : Nat
  /-- `FRAME_BYTES`, payload bytes per frame. -/
  frameBytes : Nat
  /-- `MARKER`, the marker literal's bytes. -/
  marker : List Byte
  /-- `LINE_TERMINATOR`. -/
  lineTerminator : Byte
  /-- `MARKER_MATCH`. -/
  markerMatch : MarkerMatch
  /-- `LINE_BUF_CAP`; `none` is unbounded. -/
  lineBufCap : Option Nat
  /-- `CNT_BITS`, the width of the remaining-byte counter. -/
  cntBits : Nat
deriving DecidableEq, Repr

/-- The marker literal `IMG_START` (30_encoding.md R64). -/
def imgStart : List Byte := [0x49, 0x4D, 0x47, 0x5F, 0x53, 0x54, 0x41, 0x52, 0x54]

/-- The column "this hardware" of 00_scope.md R7. -/
def Config.thisHardware : Config where
  width := 800
  height := 480
  frameBytes := 48000
  marker := imgStart
  lineTerminator := 0x0A
  markerMatch := .prefixMatch
  lineBufCap := none
  cntBits := 16

/-- What an index outside a payload would read. The rules never read one (20_memory.md R52), so the value is left
free: nothing can be proved about it. Log entry 17. -/
opaque Config.unreadByte (index : Nat) : Byte

end Sys2Proof
end

