-- ==== Sys2Proof/Syntax.lean ====
section
/-! DEFINITION. The formats the block reads and writes (30_encoding.md): symbols, operations, events, grids, host
inputs and the stimulus notation. One constructor of `Instr` per row of spec/opcode_table.json. -/

namespace Sys2Proof

/-- The mode flag (10_state.md R21). -/
inductive Mode where
  | textMode
  | awaitingImageBytes
deriving DecidableEq, Repr

/-- One item on the decoder's input (30_encoding.md R60). -/
inductive Symbol where
  /-- `BYTE b`: a data byte. -/
  | byte (b : Byte)
  /-- `EOS`: the out-of-band end-of-stream or timeout signal. -/
  | eos
deriving DecidableEq, Repr

/-- The operands of `UNPACK`, passed beside the operation word (41_bitmap_unpacker.md R120). -/
structure UnpackOperands where
  payload : List Byte
  width : Nat
  height : Nat
deriving DecidableEq, Repr

/-- The eight operations of spec/opcode_table.json (30_encoding.md R62). -/
inductive Instr where
  /-- `T.LF`: end of line (40_decoder_symbols.md R92). -/
  | tLf
  /-- `T.CHAR`: accumulate one byte of a line (R91). -/
  | tChar (b : Byte)
  /-- `T.EOS`: end-of-stream signal in `TextMode` (R96). -/
  | tEos
  /-- `A.DATA`: one payload byte (R97). -/
  | aData (b : Byte)
  /-- `A.EOS`: end-of-stream signal during a frame (R99). -/
  | aEos
  /-- `RESET`: create the decoder state (42_lifecycle_and_pipeline.md R135). -/
  | reset
  /-- `UNPACK`: packed bitmap to pixel grid (41_bitmap_unpacker.md R120). -/
  | unpack (payload : List Byte) (width height : Nat)
  /-- `DISCONNECT`: discard the decoder state (42_lifecycle_and_pipeline.md R136). -/
  | disconnect
deriving DecidableEq, Repr

/-- The three error kinds (60_exceptions.md R150). -/
inductive ErrorKind where
  | invalidEncoding
  | truncatedFrame
  | shapeError
deriving DecidableEq, Repr

/-- The two forms of a `DecodeError` event with what each records (30_encoding.md R70). -/
inductive DecodeError where
  /-- `raw`: the segment without its terminator. -/
  | invalidEncoding (raw : List Byte)
  /-- `bytesReceived`: the payload bytes that had arrived. -/
  | truncatedFrame (bytesReceived : Nat)
deriving DecidableEq, Repr

/-- A `DecodedEvent` (30_encoding.md R70). -/
inductive DecodedEvent where
  | logLine (text : List Byte)
  | imageFrame (payload : List Byte) (width height : Nat)
  | decodeError (error : DecodeError)
deriving DecidableEq, Repr

/-- A pixel: `Dark` is foreground/black, `Light` background/white (41_bitmap_unpacker.md R121, R123). -/
inductive Pixel where
  | dark
  | light
deriving DecidableEq, Repr

/-- A `PixelGrid`: `height` rows of `width` pixels, row 0 first (41_bitmap_unpacker.md R121). -/
structure PixelGrid where
  width : Nat
  height : Nat
  rows : List (List Pixel)
deriving DecidableEq, Repr

/-- What `unpack` returns (41_bitmap_unpacker.md R120, R122): `ShapeError` is its failure value and carries nothing. -/
inductive UnpackResult where
  | grid (g : PixelGrid)
  | shapeError
deriving DecidableEq, Repr

/-- An item of the text sink (42_lifecycle_and_pipeline.md R137). -/
inductive TextItem where
  | text (t : List Byte)
  | error (e : DecodeError)
deriving DecidableEq, Repr

/-- An item handed to one of the two sinks, in the merged order of 20_memory.md R53. -/
inductive SinkItem where
  | text (item : TextItem)
  | image (g : PixelGrid)
deriving DecidableEq, Repr

/-- The string a sink shows for an error: a parameter the spec leaves open (`render_error`, D19) and the sink owns
(42_lifecycle_and_pipeline.md R138; 93_implementation_defined.md U5). Free: nothing can be proved about it. Log entry 18. -/
opaque Config.renderError (e : DecodeError) : List Byte

/-- One thing the host does to the block between two steps: deliver a symbol, or make one of the three requests that
are not stream symbols (30_encoding.md R62). -/
inductive Input where
  | symbol (sym : Symbol)
  | reset
  | unpack (operands : UnpackOperands)
  | disconnect
deriving DecidableEq, Repr

/-- The statements of the stimulus notation that produce data bytes (30_encoding.md R75). A string is written as its
characters. -/
inductive ByteStatement where
  /-- `BYTE v` -/
  | byte (v : Byte)
  /-- `HEX v1 v2 ...` -/
  | hex (vs : List Byte)
  /-- `TEXT "s"` -/
  | text (s : List Char)
  /-- `LINE "s"` -/
  | line (s : List Char)
  /-- `MARKER` -/
  | marker
  /-- `FRAME [p]` -/
  | frame (p : List Byte)
deriving DecidableEq, Repr

/-- A statement of the stimulus notation (30_encoding.md R75). -/
inductive Statement where
  | reset
  | disconnect
  | bytes (b : ByteStatement)
  | eos
  /-- `CHUNK { ... }`: the enclosed statements are delivered by one `feed` call. -/
  | chunk (body : List ByteStatement)
  /-- `UNPACK [p] w h` -/
  | unpack (operands : UnpackOperands)
deriving DecidableEq, Repr

end Sys2Proof
end

