-- ==== Sys2Proof/WellFormed.lean ====
section
/-! DEFINITION. The checks of a configuration (00_scope.md R8), of an operation (30_encoding.md R62) and of a stimulus
statement (30_encoding.md R75). -/

namespace Sys2Proof

/-- `ceil(log2(n))` (00_scope.md R7). -/
def ceilLog2 (n : Nat) : Nat := if n ≤ 1 then 0 else Nat.log2 (n - 1) + 1

/-- The constraints of 00_scope.md R8 (decision D5), with the width of the counter as R7 defines it (log entry 22). -/
def Config.wf (c : Config) : Bool :=
  decide (1 ≤ c.width ∧ 1 ≤ c.height ∧ c.width * c.height % 8 = 0 ∧
    c.frameBytes = c.width * c.height / 8 ∧ 1 ≤ c.frameBytes ∧ c.cntBits = ceilLog2 (c.frameBytes + 1))

/-- An operation that R62 can select: the byte of `T.CHAR` is not the terminator, which selects `T.LF`. Every other
operation is selected with every value of its operands. -/
abbrev Instr.wf (c : Config) (i : Instr) : Prop := i ≠ .tChar c.lineTerminator

/-- `TEXT` and `LINE` give one byte per character, so each character's code is below 256; `FRAME [p]` is well-formed
only if `len(p) = FRAME_BYTES` (30_encoding.md R75). -/
def ByteStatement.wf (c : Config) : ByteStatement → Bool
  | .byte _ => true
  | .hex _ => true
  | .text s => s.all fun ch => ch.toNat < 256
  | .line s => s.all fun ch => ch.toNat < 256
  | .marker => true
  | .frame p => p.length == c.frameBytes

/-- A well-formed statement of the stimulus notation. -/
def Statement.wf (c : Config) : Statement → Bool
  | .reset => true
  | .disconnect => true
  | .bytes b => b.wf c
  | .eos => true
  | .chunk body => body.all fun b => b.wf c
  | .unpack _ => true

end Sys2Proof
end

