-- ==== Sys2Proof/Decode.lean ====
section
/-! DEFINITION. From operation words to operations and back (30_encoding.md R60, R62, R76), and the expansion of the
stimulus notation (R75). Log entries 11, 23, 24. -/

namespace Sys2Proof

/-- `bits[hi:lo]` of a word `v`: `(v div 2^lo) mod 2^(hi-lo+1)` (00_scope.md R11). -/
def bitField (v hi lo : Nat) : Nat := v / 2 ^ lo % 2 ^ (hi - lo + 1)

/-- The mode flag as one bit: `TextMode` 0, `AwaitingImageBytes` 1 (10_state.md R21). -/
def Mode.toBit : Mode → Nat
  | .textMode => 0
  | .awaitingImageBytes => 1

/-- The mode that a mode bit stands for (10_state.md R21). -/
def modeOfBit (m : Nat) : Mode := if m = 0 then .textMode else .awaitingImageBytes

/-- `eos ‖ data[7:0]` (30_encoding.md R60); the ignored data of `EOS` is written as 0. -/
def Symbol.toWord : Symbol → SymbolWord
  | .byte b => BitVec.ofNat 9 (0 * 2 ^ 8 + b.toNat)
  | .eos => BitVec.ofNat 9 (1 * 2 ^ 8 + 0)

/-- The symbol a 9-bit word stands for: `data` is ignored when `eos = 1` (30_encoding.md R60). -/
def symbolOfWord (w : SymbolWord) : Symbol :=
  if bitField w.toNat 8 8 = 0 then .byte (BitVec.ofNat 8 (bitField w.toNat 7 0)) else .eos

/-- `OW[11:10]` (30_encoding.md R76). -/
def reqField (w : OpWord) : Nat := bitField w.toNat 11 10

/-- `OW[9]`. -/
def modeField (w : OpWord) : Nat := bitField w.toNat 9 9

/-- `OW[8:0]`, the symbol word. -/
def symbolField (w : OpWord) : SymbolWord := BitVec.ofNat 9 (bitField w.toNat 8 0)

/-- The operation word of a stream symbol decoded in a mode: `00 ‖ mode ‖ symbol` (30_encoding.md R76). -/
def streamWord (m : Mode) (sym : Symbol) : OpWord := BitVec.ofNat 12 (m.toBit * 2 ^ 9 + sym.toWord.toNat)

/-- The operation word of a request that is not a stream symbol; its ignored bits 9:0 are written as 0. -/
def requestWord (req : Nat) : OpWord := BitVec.ofNat 12 (req * 2 ^ 10)

/-- What the decoder is given: an operation word and, beside it, the operands that `UNPACK` takes
(spec/opcode_table.json, row UNPACK). -/
structure Packet where
  word : OpWord
  operands : UnpackOperands
deriving DecidableEq, Repr

/-- No operands: what stands beside the word of every operation but `UNPACK`. -/
def noOperands : UnpackOperands := ⟨[], 0, 0⟩

/-- The operation a symbol selects in a mode (30_encoding.md R62). -/
def selectOp (c : Config) (m : Mode) (sym : Symbol) : Instr :=
  match m, sym with
  | .textMode, .byte b => if b = c.lineTerminator then .tLf else .tChar b
  | .textMode, .eos => .tEos
  | .awaitingImageBytes, .byte b => .aData b
  | .awaitingImageBytes, .eos => .aEos

/-- The operation a packet selects (30_encoding.md R76). Total: every one of the 4096 words selects one. -/
def decode (c : Config) (p : Packet) : Instr :=
  if reqField p.word = 0 then selectOp c (modeOfBit (modeField p.word)) (symbolOfWord (symbolField p.word))
  else if reqField p.word = 1 then .reset
  else if reqField p.word = 2 then .unpack p.operands.payload p.operands.width p.operands.height
  else .disconnect

/-- The packet of an operation, from the rows of spec/opcode_table.json; bits the row ignores are 0. -/
def encode (c : Config) : Instr → Packet
  | .tLf => ⟨streamWord .textMode (.byte c.lineTerminator), noOperands⟩
  | .tChar b => ⟨streamWord .textMode (.byte b), noOperands⟩
  | .tEos => ⟨streamWord .textMode .eos, noOperands⟩
  | .aData b => ⟨streamWord .awaitingImageBytes (.byte b), noOperands⟩
  | .aEos => ⟨streamWord .awaitingImageBytes .eos, noOperands⟩
  | .reset => ⟨requestWord 1, noOperands⟩
  | .unpack payload width height => ⟨requestWord 2, ⟨payload, width, height⟩⟩
  | .disconnect => ⟨requestWord 3, noOperands⟩

/-- A row of the operation table: its name, its match and its mask. -/
structure TableRow where
  mnemonic : String
  matchBits : Nat
  mask : Nat
deriving DecidableEq, Repr

/-- spec/opcode_table.json, in its order; for this hardware's terminator the first row's match is 0x00A. -/
def opTable (c : Config) : List TableRow :=
  [⟨"T.LF", c.lineTerminator.toNat, 0xFFF⟩,
   ⟨"T.CHAR", 0x000, 0xF00⟩,
   ⟨"T.EOS", 0x100, 0xF00⟩,
   ⟨"A.DATA", 0x200, 0xF00⟩,
   ⟨"A.EOS", 0x300, 0xF00⟩,
   ⟨"RESET", 0x400, 0xC00⟩,
   ⟨"UNPACK", 0x800, 0xC00⟩,
   ⟨"DISCONNECT", 0xC00, 0xC00⟩]

/-- A row matches a word when the word's masked bits are the row's. -/
def TableRow.matchesWord (r : TableRow) (w : OpWord) : Bool := w.toNat &&& r.mask == r.matchBits

/-- First match wins (30_encoding.md R76). -/
def firstRow (c : Config) (w : OpWord) : Option TableRow := (opTable c).find? fun r => r.matchesWord w

/-- The table's name for an operation. -/
def Instr.mnemonic : Instr → String
  | .tLf => "T.LF"
  | .tChar _ => "T.CHAR"
  | .tEos => "T.EOS"
  | .aData _ => "A.DATA"
  | .aEos => "A.EOS"
  | .reset => "RESET"
  | .unpack _ _ _ => "UNPACK"
  | .disconnect => "DISCONNECT"

/-- Why bytes are not an operation word. The rules reject no operation word (30_encoding.md R72, R76), so these are
about the bytes that carry one, which is the model's own packaging (log entry 11). -/
inductive DecodeReject where
  /-- Not exactly two bytes. -/
  | notTwoBytes
  /-- The two bytes hold a number above 0xFFF, which is no 12-bit operation word. -/
  | widerThanTwelveBits
deriving DecidableEq, Repr

/-- The operation that two bytes select, low byte first, with operands beside them. Total on any bytes. -/
def decodeBytes (c : Config) (bytes : List Byte) (operands : UnpackOperands) : Except DecodeReject Instr :=
  match bytes with
  | [low, high] =>
    if high.toNat < 16 then .ok (decode c ⟨BitVec.ofNat 12 (high.toNat * 2 ^ 8 + low.toNat), operands⟩) else .error .widerThanTwelveBits
  | _ => .error .notTwoBytes

/-- The bits `w` of an instruction of `nbits` bits, every bit above `nbits` being 0. -/
def tableBits (nbits w : Nat) : Nat := w % 2 ^ nbits

/-- The operation of a table word for this hardware, its operands (which the table gives no bits) empty. -/
def decodeTableWord (nbits w : Nat) : Option Instr :=
  let v := tableBits nbits w
  if v < 2 ^ 16 then
    (decodeBytes Config.thisHardware [BitVec.ofNat 8 v, BitVec.ofNat 8 (v / 256)] noOperands).toOption
  else none

/-- The bytes of a text: each character's code (00_scope.md R12; 30_encoding.md R75). -/
def textBytes (s : List Char) : List Byte := s.map fun ch => BitVec.ofNat 8 ch.toNat

/-- The data bytes a statement stands for (30_encoding.md R75). -/
def ByteStatement.expand (c : Config) : ByteStatement → List Byte
  | .byte v => [v]
  | .hex vs => vs
  | .text s => textBytes s
  | .line s => textBytes s ++ [c.lineTerminator]
  | .marker => c.marker ++ [c.lineTerminator]
  | .frame p => c.marker ++ [c.lineTerminator] ++ p

/-- The host inputs a statement stands for (30_encoding.md R75): grouping into chunks has no effect. -/
def Statement.expand (c : Config) : Statement → List Input
  | .reset => [.reset]
  | .disconnect => [.disconnect]
  | .bytes b => (b.expand c).map fun v => .symbol (.byte v)
  | .eos => [.symbol .eos]
  | .chunk body => (body.flatMap fun b => b.expand c).map fun v => .symbol (.byte v)
  | .unpack operands => [.unpack operands]

/-- The host inputs of a stimulus, in order. -/
def expandStimulus (c : Config) (program : List Statement) : List Input := program.flatMap fun st => st.expand c

end Sys2Proof
end

