-- ==== Sys2Proof/Machine/State.lean ====
section
/-! DEFINITION. The machine's state (10_state.md R20, R35), why a step can stop, and the state after reset. Log entries
1, 3, 4, 6, 26. -/

namespace Sys2Proof.Machine

/-- The decoder's state: exactly the four fields of 10_state.md R20. -/
structure DecoderState where
  /-- The mode flag (R21). -/
  mode : Mode
  /-- Payload bytes still to come for the current frame (R22). -/
  remaining : Nat
  /-- Bytes of the current line, in arrival order (R23). -/
  linebuf : List Byte
  /-- Payload bytes of the current frame, in arrival order (R24). -/
  framebuf : List Byte
deriving DecidableEq, Repr

/-- The reset values of 10_state.md R35. -/
def DecoderState.reset : DecoderState := ⟨.textMode, 0, [], []⟩

/-- Why the machine stops with a fault. -/
inductive Fault where
  /-- `A.DATA`: the unpacker's own shape check failed on the decoder's frame, "surfaced as a hard failure"
  (41_bitmap_unpacker.md R122). 42_lifecycle_and_pipeline.md R139 says this cannot happen. Safe: the model stops, and a
  statement says it never does. Log entry 10. -/
  | pipelineShapeError
deriving DecidableEq, Repr

/-- Why the model gives no meaning to an operation in a state. -/
inductive Refusal where
  /-- Raised by the dispatch for an instruction that has no meaning yet; no arm raises it. Safe. -/
  | notModelled (mnemonic : String)
  /-- Raised by every operation: the configuration breaks 00_scope.md R8 (U3). Safe. Log entry 5. -/
  | badConfiguration
  /-- Raised by every stream symbol and its five operations: no RESET has created a state (42_lifecycle_and_pipeline.md
  R135, U6). Safe. Log entry 6. -/
  | noDecoderState
  /-- Raised by the five stream operations: the state breaks the invariants of 10_state.md R25 (U4). Safe. Log entry 7. -/
  | illFormedState
  /-- Raised by `T.CHAR`: the line is longer than a finite `LINE_BUF_CAP` (U1). Safe. Log entry 8. -/
  | lineBufferOverflow
  /-- Raised by the five stream operations: 30_encoding.md R62 does not select this operation in this mode, so no symbol
  brings it about. Safe. Log entry 9. -/
  | notSelected
deriving DecidableEq, Repr

/-- The whole machine. -/
structure State where
  /-- The configuration constants, hardwired: no step writes them (10_state.md R29). -/
  cfg : Config
  /-- The decoder's state; `none` is the spec's own "absent" (42_lifecycle_and_pipeline.md R135, R136). -/
  dec : Option DecoderState
  /-- The model's own field: the host inputs delivered and not yet consumed, oldest first. Log entry 1. -/
  pending : List Input
  /-- The model's own field: the events the decoder has emitted, in order. Log entry 3. -/
  events : List DecodedEvent
  /-- The model's own field: the items the two sinks have been handed, in merged order. Log entry 3. -/
  sinks : List SinkItem
  /-- The model's own field: what each UNPACK request has returned, in order. Log entry 3. -/
  results : List UnpackResult
deriving DecidableEq, Repr

/-- The machine right after RESET (10_state.md R35), with this hardware's constants and nothing delivered or emitted. -/
def State.reset : State := ⟨Config.thisHardware, some DecoderState.reset, [], [], [], []⟩

/-- `s` with the decoder's state replaced. -/
def State.setDec (s : State) (d : DecoderState) : State := { s with dec := some d }

/-- `s` with the decoder's state absent. -/
def State.dropDec (s : State) : State := { s with dec := none }

/-- `s` with the undelivered inputs replaced. -/
def State.setPending (s : State) (inputs : List Input) : State := { s with pending := inputs }

/-- `s` after an event and the item it becomes have gone out. -/
def State.record (s : State) (ev : DecodedEvent) (item : SinkItem) : State :=
  { s with events := s.events ++ [ev], sinks := s.sinks ++ [item] }

/-- `s` after an UNPACK request has been answered. -/
def State.addResult (s : State) (r : UnpackResult) : State := { s with results := s.results ++ [r] }

end Sys2Proof.Machine
end

