-- ==== Sys2Proof/Machine/Operands.lean ====
section
/-! DEFINITION. How the operations read their operands: UTF-8 validity and code points (30_encoding.md R68, R69), the
marker test (R65), and bits and pixel indices of a payload (00_scope.md R11; R67). Log entries 13, 14, 16, 17. -/

namespace Sys2Proof.Machine

/-- An inclusive range of byte values. -/
abbrev ByteRange := Nat × Nat

/-- The byte lies in the range. -/
def inRange (r : ByteRange) (b : Byte) : Bool := r.1 ≤ b.toNat && b.toNat ≤ r.2

/-- The table of well-formed UTF-8 byte sequences (30_encoding.md R68), a row per row. -/
def utf8Table : List (List ByteRange) :=
  [[(0x00, 0x7F)],
   [(0xC2, 0xDF), (0x80, 0xBF)],
   [(0xE0, 0xE0), (0xA0, 0xBF), (0x80, 0xBF)],
   [(0xE1, 0xEC), (0x80, 0xBF), (0x80, 0xBF)],
   [(0xED, 0xED), (0x80, 0x9F), (0x80, 0xBF)],
   [(0xEE, 0xEF), (0x80, 0xBF), (0x80, 0xBF)],
   [(0xF0, 0xF0), (0x90, 0xBF), (0x80, 0xBF), (0x80, 0xBF)],
   [(0xF1, 0xF3), (0x80, 0xBF), (0x80, 0xBF), (0x80, 0xBF)],
   [(0xF4, 0xF4), (0x80, 0x8F), (0x80, 0xBF), (0x80, 0xBF)]]

/-- The row's first byte may be `b`. -/
def rowStartsWith (b : Byte) : List ByteRange → Bool
  | [] => false
  | r :: _ => inRange r b

/-- The ranges the rest of a character must lie in once `b` has been read, where `expect` are the ranges still open;
`none` where `b` is not allowed there. -/
def utf8Advance (expect : List ByteRange) (b : Byte) : Option (List ByteRange) :=
  match expect with
  | [] => (utf8Table.find? (rowStartsWith b)).map List.tail
  | r :: rs => if inRange r b then some rs else none

/-- The characters of the bytes, where `cur` are the bytes of an unfinished character and `expect` the ranges its rest
must lie in; `none` where the bytes are not well-formed. -/
def utf8Scan (expect : List ByteRange) (cur : List Byte) : List Byte → Option (List (List Byte))
  | [] => if expect.isEmpty then some [] else none
  | b :: rest =>
    match utf8Advance expect b with
    | none => none
    | some [] => (utf8Scan [] [] rest).map ((cur ++ [b]) :: ·)
    | some (r :: rs) => utf8Scan (r :: rs) (cur ++ [b]) rest

/-- A segment split, left to right, into the byte sequences of its characters (30_encoding.md R68). -/
def utf8Split (seg : List Byte) : Option (List (List Byte)) := utf8Scan [] [] seg

/-- `utf8_valid(seg)` (30_encoding.md R68). -/
def utf8Valid (seg : List Byte) : Bool := (utf8Split seg).isSome

/-- The code point of one character's bytes (30_encoding.md R69). -/
def codePoint : List Byte → Option Nat
  | [b1] => some b1.toNat
  | [b1, b2] => some (b1.toNat % 32 * 64 + b2.toNat % 64)
  | [b1, b2, b3] => some (b1.toNat % 16 * 4096 + b2.toNat % 64 * 64 + b3.toNat % 64)
  | [b1, b2, b3, b4] =>
    some (b1.toNat % 8 * 262144 + b2.toNat % 64 * 4096 + b3.toNat % 64 * 64 + b4.toNat % 64)
  | _ => none

/-- The characters of a text (30_encoding.md R69); `none` where the bytes are not valid. -/
def codePoints (seg : List Byte) : Option (List Nat) := (utf8Split seg).bind fun chars => chars.mapM codePoint

/-- `is_marker(seg)` (30_encoding.md R65), both readings. -/
def isMarker (c : Config) (seg : List Byte) : Bool :=
  match c.markerMatch with
  | .prefixMatch => c.marker.length ≤ seg.length && seg.take c.marker.length == c.marker
  | .exactMatch => seg == c.marker

/-- `bit(b, i) = (b div 2^i) mod 2` (00_scope.md R11). -/
def bit (b : Byte) (i : Nat) : Nat := b.toNat / 2 ^ i % 2

/-- `byte_index = (y*width + x) div 8` (30_encoding.md R67). -/
def byteIndex (width x y : Nat) : Nat := (y * width + x) / 8

/-- `bit_index = 7 - (x mod 8)` (30_encoding.md R67): the column's place in its byte, not the linear number's (conflict
C5). -/
def bitIndex (x : Nat) : Nat := 7 - x % 8

/-- `payload[index]` (00_scope.md R12); free outside the payload, which no rule reads (20_memory.md R52). -/
def payloadByte (payload : List Byte) (index : Nat) : Byte := payload.getD index (Config.unreadByte index)

/-- The pixel a payload bit stands for: 0 is dark, 1 is light (30_encoding.md R67; 41_bitmap_unpacker.md R123). -/
def pixelOfBit (v : Nat) : Pixel := if v = 0 then .dark else .light

/-- `pixel_of(payload, width, x, y)` (30_encoding.md R67). -/
def pixelOf (payload : List Byte) (width x y : Nat) : Pixel :=
  pixelOfBit (bit (payloadByte payload (byteIndex width x y)) (bitIndex x))

end Sys2Proof.Machine
end

