-- ==== Sys2Proof/Machine/Flags.lean ====
section
/-! DEFINITION. The mode flag's invariants (10_state.md R25), the limits of the two buffers, the codes of events and
errors (30_encoding.md R70; 60_exceptions.md R150), and the constraints on events (R70). There is no other flag (10_state.md
R28). Log entries 7, 8, 25. -/

namespace Sys2Proof.Machine

/-- A line buffer of `n` bytes is within `LINE_BUF_CAP` (00_scope.md R7). -/
def lineFits (c : Config) (n : Nat) : Bool :=
  match c.lineBufCap with
  | none => true
  | some cap => n ≤ cap

/-- The well-formedness of a decoder state: 10_state.md R25 (a), (b), (c), and the capacity of R20. -/
def DecoderState.wf (c : Config) (d : DecoderState) : Bool :=
  decide (
    (d.mode = .textMode → d.remaining = 0 ∧ d.framebuf = []) ∧
    (d.mode = .awaitingImageBytes →
      1 ≤ d.remaining ∧ d.remaining ≤ c.frameBytes ∧ d.linebuf = [] ∧
        d.framebuf.length = c.frameBytes - d.remaining) ∧
    c.lineTerminator ∉ d.linebuf ∧
    lineFits c d.linebuf.length = true)

/-- The numeric tag of an event (30_encoding.md R70). -/
def eventTag : DecodedEvent → Nat
  | .logLine _ => 0
  | .imageFrame _ _ _ => 1
  | .decodeError _ => 2

/-- The kind of a decoder error (60_exceptions.md R150). -/
def errorKind : DecodeError → ErrorKind
  | .invalidEncoding _ => .invalidEncoding
  | .truncatedFrame _ => .truncatedFrame

/-- The numeric code of an error kind (60_exceptions.md R150). -/
def errorCode : ErrorKind → Nat
  | .invalidEncoding => 0
  | .truncatedFrame => 1
  | .shapeError => 2

/-- The constraints on an event's fields (30_encoding.md R70). -/
def eventWf (c : Config) : DecodedEvent → Prop
  | .logLine text => utf8Valid text = true ∧ c.lineTerminator ∉ text ∧ isMarker c text = false
  | .imageFrame payload width height => payload.length = c.frameBytes ∧ width = c.width ∧ height = c.height
  | .decodeError (.invalidEncoding raw) => utf8Valid raw = false ∧ c.lineTerminator ∉ raw ∧ 1 ≤ raw.length
  | .decodeError (.truncatedFrame n) => n ≤ c.frameBytes - 1

end Sys2Proof.Machine
end

