-- ==== Sys2Proof/Machine/Bitmap.lean ====
section
/-! DEFINITION. The unpacker's function (41_bitmap_unpacker.md R120 to R128), the grid, and the inverse `pack` that the
round trip is stated with (R126). -/

namespace Sys2Proof.Machine

/-- `G[y][x]`, where the grid has such a pixel (41_bitmap_unpacker.md R121). -/
def gridPixel (g : PixelGrid) (x y : Nat) : Option Pixel := g.rows[y]?.bind fun row => row[x]?

/-- The grid has `height` rows of `width` pixels (41_bitmap_unpacker.md R121). -/
abbrev gridWf (g : PixelGrid) : Prop := g.rows.length = g.height ∧ ∀ row ∈ g.rows, row.length = g.width

/-- `is_dark(p)` (41_bitmap_unpacker.md R121). -/
def isDark : Pixel → Bool
  | .dark => true
  | .light => false

/-- Row `y` of the grid (30_encoding.md R67). -/
def unpackRow (payload : List Byte) (width y : Nat) : List Pixel :=
  (List.range width).map fun x => pixelOf payload width x y

/-- `unpack(payload, width, height)` (41_bitmap_unpacker.md R120): the shape check is the exact equation of conflict
C7. -/
def unpack (payload : List Byte) (width height : Nat) : UnpackResult :=
  if 8 * payload.length = width * height then
    .grid ⟨width, height, (List.range height).map fun y => unpackRow payload width y⟩
  else .shapeError

/-- The payload bit of a pixel: the complement of `is_dark` (41_bitmap_unpacker.md R121, R126). -/
def bitOfPixel (p : Pixel) : Nat := if isDark p then 0 else 1

/-- Eight pixels of a row as a byte, the first in bit 7 (41_bitmap_unpacker.md R125). -/
def byteOfPixels (p7 p6 p5 p4 p3 p2 p1 p0 : Pixel) : Byte :=
  BitVec.ofNat 8 (bitOfPixel p7 * 128 + bitOfPixel p6 * 64 + bitOfPixel p5 * 32 + bitOfPixel p4 * 16 +
    bitOfPixel p3 * 8 + bitOfPixel p2 * 4 + bitOfPixel p1 * 2 + bitOfPixel p0)

/-- A row of pixels as bytes; what is left over of a width that is not a multiple of 8 has no byte. -/
def packRow : List Pixel → List Byte
  | p7 :: p6 :: p5 :: p4 :: p3 :: p2 :: p1 :: p0 :: rest => byteOfPixels p7 p6 p5 p4 p3 p2 p1 p0 :: packRow rest
  | _ => []

/-- `pack(G, width, height)` for a width that is a multiple of 8 (41_bitmap_unpacker.md R126). -/
def pack (g : PixelGrid) : List Byte := g.rows.flatMap packRow

end Sys2Proof.Machine
end

