-- ==== Sys2Proof/Machine/Ops.lean ====
section
/-! DEFINITION. The shared operations: appending to and clearing the buffers (00_scope.md R13), reading one byte of a
buffer, emitting an event and routing it to its sink (42_lifecycle_and_pipeline.md R137), taking a decoder error
(60_exceptions.md R151, R152, R156), and what an operation checks before it acts. There is no return from an error
(R157). Log entries 5 to 10, 19, 20. -/

namespace Sys2Proof.Machine

/-- The outcomes of this machine. -/
abbrev Result := Host.Outcome State Fault Refusal

/-- `linebuf <- linebuf ++ [b]` (40_decoder_symbols.md R91). -/
def pushLine (d : DecoderState) (b : Byte) : DecoderState := { d with linebuf := d.linebuf ++ [b] }

/-- `linebuf <- []` (40_decoder_symbols.md R92). -/
def clearLine (d : DecoderState) : DecoderState := { d with linebuf := [] }

/-- `mode <- AwaitingImageBytes; remaining <- FRAME_BYTES` (40_decoder_symbols.md R94; 30_encoding.md R71). -/
def startFrame (c : Config) (d : DecoderState) : DecoderState :=
  { d with mode := .awaitingImageBytes, remaining := c.frameBytes }

/-- `framebuf <- framebuf ++ [b]; remaining <- remaining - 1` (40_decoder_symbols.md R97). -/
def pushFrame (d : DecoderState) (b : Byte) : DecoderState :=
  { d with framebuf := d.framebuf ++ [b], remaining := d.remaining - 1 }

/-- `framebuf <- []; mode <- TextMode` (40_decoder_symbols.md R98). -/
def finishFrame (d : DecoderState) : DecoderState := { d with framebuf := [], mode := .textMode }

/-- The two buffers as byte-addressed spaces (20_memory.md R40). -/
inductive Space where
  | linebuf
  | framebuf
deriving DecidableEq, Repr

/-- The bytes of a space; none where there is no decoder state. -/
def spaceBytes (sp : Space) (s : State) : List Byte :=
  match s.dec, sp with
  | none, _ => []
  | some d, .linebuf => d.linebuf
  | some d, .framebuf => d.framebuf

/-- `MemRead(space, addr, 1)` (00_scope.md R13); `none` past the end. -/
def memRead (sp : Space) (addr : Nat) (s : State) : Option Byte := (spaceBytes sp s)[addr]?

/-- The sink item an event becomes (42_lifecycle_and_pipeline.md R137): an image frame goes through the unpacker, and
gives `none` where the unpacker fails. -/
def sinkItemOf : DecodedEvent → Option SinkItem
  | .logLine text => some (.text (.text text))
  | .decodeError e => some (.text (.error e))
  | .imageFrame payload width height =>
    match unpack payload width height with
    | .grid g => some (.image g)
    | .shapeError => none

/-- `emit E` (00_scope.md R13), with the routing that is part of the same step (42_lifecycle_and_pipeline.md R137). -/
def emit (ev : DecodedEvent) (s : State) : Result :=
  match sinkItemOf ev with
  | some item => .next (s.record ev item)
  | none => .fault .pipelineShapeError

/-- Taking a decoder error (60_exceptions.md R151, R152, R156): the decoder is put in the reset state and the error goes
out as an event; nothing is saved and control goes nowhere. -/
def takeDecodeError (e : DecodeError) (s : State) : Result := emit (.decodeError e) (s.setDec DecoderState.reset)

/-- Run `act` only in a legal configuration (00_scope.md R8; U3). -/
def configured (s : State) (act : Result) : Result := if s.cfg.wf then act else .refused .badConfiguration

/-- Run `act` on the decoder's state where 30_encoding.md R62 can select the operation: a legal configuration, a state
that exists (U6), that is well-formed (U4), and whose mode is the operation's. -/
def onStream (m : Mode) (s : State) (act : DecoderState → Result) : Result :=
  configured s <|
    match s.dec with
    | none => .refused .noDecoderState
    | some d =>
      if d.wf s.cfg then if d.mode = m then act d else .refused .notSelected
      else .refused .illFormedState

/-- The items of the text sink, in order (42_lifecycle_and_pipeline.md R142). -/
def textSink (s : State) : List TextItem :=
  s.sinks.filterMap fun
    | .text item => some item
    | .image _ => none

/-- The items of the image sink, in order (42_lifecycle_and_pipeline.md R142). -/
def imageSink (s : State) : List PixelGrid :=
  s.sinks.filterMap fun
    | .text _ => none
    | .image g => some g

/-- What the text sink shows for an item: a text verbatim, an error as the sink renders it (42_lifecycle_and_pipeline.md
R138). -/
def shownText : TextItem → List Byte
  | .text t => t
  | .error e => Config.renderError e

/-- Go on after a step that gave a next state. -/
def andThen (r : Result) (f : State → Result) : Result :=
  match r with
  | .next s => f s
  | .fault why => .fault why
  | .refused why => .refused why

end Sys2Proof.Machine
end

