-- ==== Sys2Proof/Machine/Image.lean ====
section
/-! DEFINITION. The operations in `AwaitingImageBytes` (40_decoder_symbols.md R97 to R99). -/

namespace Sys2Proof.Machine

/-- `A.DATA` (R97), completing the frame when no byte remains (R98). -/
def execAData (b : Byte) (s : State) : Result :=
  onStream .awaitingImageBytes s fun d =>
    let d' := pushFrame d b
    if d'.remaining = 0 then emit (.imageFrame d'.framebuf s.cfg.width s.cfg.height) (s.setDec (finishFrame d'))
    else .next (s.setDec d')

/-- `A.EOS` (R99). -/
def execAEos (s : State) : Result :=
  onStream .awaitingImageBytes s fun d => takeDecodeError (.truncatedFrame (s.cfg.frameBytes - d.remaining)) s

end Sys2Proof.Machine
end

