-- ==== Sys2Proof/Machine/Lifecycle.lean ====
section
/-! DEFINITION. The operations that are not stream symbols: `RESET`, `DISCONNECT` (42_lifecycle_and_pipeline.md R135,
R136) and `UNPACK` (41_bitmap_unpacker.md R120). -/

namespace Sys2Proof.Machine

/-- `RESET` (R135): the reset values, whatever the state was, and no event. -/
def execReset (s : State) : Result := configured s (.next (s.setDec DecoderState.reset))

/-- `DISCONNECT` (R136): the state becomes absent, and no event. -/
def execDisconnect (s : State) : Result := configured s (.next s.dropDec)

/-- `UNPACK` (R120): its caller is given the grid or the `ShapeError` (R122); no state of the block changes (R153). -/
def execUnpack (payload : List Byte) (width height : Nat) (s : State) : Result :=
  configured s (.next (s.addResult (unpack payload width height)))

end Sys2Proof.Machine
end

