-- ==== Sys2Proof/Machine/Text.lean ====
section
/-! DEFINITION. The operations in `TextMode` (40_decoder_symbols.md R91 to R96). -/

namespace Sys2Proof.Machine

/-- `T.CHAR` (R91). A finite `LINE_BUF_CAP` that would be exceeded refuses (U1); the terminator selects `T.LF` (R62). -/
def execTChar (b : Byte) (s : State) : Result :=
  onStream .textMode s fun d =>
    if b = s.cfg.lineTerminator then .refused .notSelected
    else if lineFits s.cfg (d.linebuf.length + 1) then .next (s.setDec (pushLine d b))
    else .refused .lineBufferOverflow

/-- `T.LF` (R92), with its outcomes InvalidEncoding (R93), Marker (R94) and LogLine (R95) tested in that order. -/
def execTLf (s : State) : Result :=
  onStream .textMode s fun d =>
    if utf8Valid d.linebuf = false then takeDecodeError (.invalidEncoding d.linebuf) s
    else if isMarker s.cfg d.linebuf then .next (s.setDec (startFrame s.cfg (clearLine d)))
    else emit (.logLine d.linebuf) (s.setDec (clearLine d))

/-- `T.EOS` (R96; decision D9): no event and no state change. -/
def execTEos (s : State) : Result := onStream .textMode s fun _ => .next s

end Sys2Proof.Machine
end

