-- ==== Sys2Proof/Machine/Dispatch.lean ====
section
/-! DEFINITION. One arm per operation of spec/opcode_table.json. -/

namespace Sys2Proof.Machine

def exec (i : Instr) (s : State) : Host.Outcome State Fault Refusal :=
  match i with
  | .tLf => Sys2Proof.Machine.execTLf s
  | .tChar b => Sys2Proof.Machine.execTChar b s
  | .tEos => Sys2Proof.Machine.execTEos s
  | .aData b => Sys2Proof.Machine.execAData b s
  | .aEos => Sys2Proof.Machine.execAEos s
  | .reset => Sys2Proof.Machine.execReset s
  | .unpack payload width height => Sys2Proof.Machine.execUnpack payload width height s
  | .disconnect => Sys2Proof.Machine.execDisconnect s

end Sys2Proof.Machine
end

