-- ==== Sys2Proof/Machine/Perform.lean ====
section
/-! DEFINITION. What the block does with one host input, and the decoder's pseudo-operations `feed` and `run`
(40_decoder_symbols.md R90, R100, R104). Log entries 1, 12. -/

namespace Sys2Proof.Machine

/-- The packet a host input is decoded from: a symbol together with the state's mode at that moment (30_encoding.md R62,
R76). A symbol has none where there is no decoder state. -/
def packetFor (input : Input) (dec : Option DecoderState) : Option Packet :=
  match input with
  | .symbol sym => dec.map fun d => ⟨streamWord d.mode sym, noOperands⟩
  | .reset => some ⟨requestWord 1, noOperands⟩
  | .unpack operands => some ⟨requestWord 2, operands⟩
  | .disconnect => some ⟨requestWord 3, noOperands⟩

/-- Decode one host input and run the operation it selects; a symbol with no decoder state is refused (U6). -/
def perform (input : Input) (s : State) : Result :=
  match packetFor input s.dec with
  | some p => exec (decode s.cfg p) s
  | none => .refused .noDecoderState

/-- Perform host inputs in order. -/
def performAll : List Input → State → Result
  | [], s => .next s
  | input :: rest, s => andThen (perform input s) (performAll rest)

/-- `run(S, syms)` (40_decoder_symbols.md R104); the events are those added to `events`. -/
def run (syms : List Symbol) (s : State) : Result := performAll (syms.map .symbol) s

/-- `feed(chunk)` (40_decoder_symbols.md R100). -/
def feed (chunk : List Byte) (s : State) : Result := run (chunk.map .byte) s

/-- The state that a new connection (`TextMode`, R35) or a marker line just received (`AwaitingImageBytes`, R94) leaves. -/
def freshDecoder (c : Config) : Mode → DecoderState
  | .textMode => DecoderState.reset
  | .awaitingImageBytes => startFrame c DecoderState.reset

/-- A decoder state in a given mode: the one there is, where its mode is that one, else a fresh one. Log entry 12. -/
def decoderInMode (c : Config) (m : Mode) (dec : Option DecoderState) : DecoderState :=
  match dec with
  | some d => if d.mode = m then d else freshDecoder c m
  | none => freshDecoder c m

/-- `s` with a table word's input delivered next, and its mode bit, which is the state's and not the symbol's
(30_encoding.md R76), made true of the state. -/
def deliverWord (w : OpWord) (s : State) : State :=
  if reqField w = 0 then
    (s.setDec (decoderInMode s.cfg (modeOfBit (modeField w)) s.dec)).setPending
      (.symbol (symbolOfWord (symbolField w)) :: s.pending)
  else if reqField w = 1 then s.setPending (.reset :: s.pending)
  else if reqField w = 2 then s.setPending (.unpack noOperands :: s.pending)
  else s.setPending (.disconnect :: s.pending)

end Sys2Proof.Machine
end

