-- ==== Sys2Proof/Machine/Step.lean ====
section
/-! DEFINITION. One step of the machine: the oldest input the host has delivered is consumed (00_scope.md R9); with none
the block is idle and its state is held (60_exceptions.md R163). Log entries 1, 2, 12. -/

namespace Sys2Proof.Machine

/-- One step. -/
def step (s : State) : Host.Outcome State Fault Refusal :=
  match s.pending with
  | [] => .next s
  | input :: rest => perform input (s.setPending rest)

/-- `s` with the table word `w` delivered next; a number above 0xFFF is no operation word and is not delivered. -/
def State.withFetchWord (s : State) (nbits w : Nat) : State :=
  if tableBits nbits w < 2 ^ 12 then deliverWord (BitVec.ofNat 12 (tableBits nbits w)) s else s

end Sys2Proof.Machine
end

