-- ==== Sys2Proof/Safety.lean ====
section
/-! DEFINITION. The terms the claims are made in: states an operation is ready to run in, the machine's invariant
(10_state.md R25 with the constraints on events of 30_encoding.md R70 and the routing of 42_lifecycle_and_pipeline.md R137),
the transition table (40_decoder_symbols.md R106), and well-formed streams (R105). -/

namespace Sys2Proof.Machine

/-- A legal configuration and a well-formed decoder state `d` in mode `m`: what R62 and R90 ask of a state before a
stream operation of that mode. -/
def Ready (m : Mode) (s : State) (d : DecoderState) : Prop :=
  s.cfg.wf ∧ s.dec = some d ∧ d.wf s.cfg ∧ d.mode = m

/-- The machine's invariant: a legal configuration (00_scope.md R8), a well-formed decoder state where there is one
(10_state.md R25), events as 30_encoding.md R70 constrains them, the sinks' items exactly the routed events
(42_lifecycle_and_pipeline.md R137, R142), and every grid returned to the host of its declared shape
(41_bitmap_unpacker.md R121). -/
def MachineInv (s : State) : Prop :=
  s.cfg.wf ∧
  (∀ d, s.dec = some d → d.wf s.cfg) ∧
  (∀ ev ∈ s.events, eventWf s.cfg ev) ∧
  s.events.map sinkItemOf = s.sinks.map some ∧
  (∀ g, UnpackResult.grid g ∈ s.results → gridWf g)

/-- The mode transition table (40_decoder_symbols.md R106): the mode and the count after a symbol, and the event. -/
def transition (c : Config) (d : DecoderState) (sym : Symbol) : Mode × Nat × Option DecodedEvent :=
  match d.mode, sym with
  | .textMode, .byte b =>
    if b ≠ c.lineTerminator then (.textMode, 0, none)
    else if utf8Valid d.linebuf = false then (.textMode, 0, some (.decodeError (.invalidEncoding d.linebuf)))
    else if isMarker c d.linebuf then (.awaitingImageBytes, c.frameBytes, none)
    else (.textMode, 0, some (.logLine d.linebuf))
  | .textMode, .eos => (.textMode, 0, none)
  | .awaitingImageBytes, .byte b =>
    if 2 ≤ d.remaining then (.awaitingImageBytes, d.remaining - 1, none)
    else (.textMode, 0, some (.imageFrame (d.framebuf ++ [b]) c.width c.height))
  | .awaitingImageBytes, .eos =>
    (.textMode, 0, some (.decodeError (.truncatedFrame (c.frameBytes - d.remaining))))

/-- `r` with every next state mapped through `f`. -/
def mapNext (f : State → State) (r : Result) : Result := andThen r fun s => .next (f s)

/-- `s` without its input queue and its history: what the block itself consists of. -/
def bare (s : State) : State := ⟨s.cfg, s.dec, [], [], [], []⟩

/-- `t`, run from `bare s`, put back behind the queue and the history of `s`. -/
def afterHistory (s t : State) : State :=
  ⟨t.cfg, t.dec, s.pending, s.events ++ t.events, s.sinks ++ t.sinks, s.results ++ t.results⟩

/-- A byte stream delivered as chunks, one `feed` each (30_encoding.md R61; 40_decoder_symbols.md R101). -/
def feedChunks : List (List Byte) → State → Result
  | [], s => .next s
  | chunk :: rest, s => andThen (feed chunk s) (feedChunks rest)

/-- A complete unit of the protocol (30_encoding.md R63, R66): a line that is no marker line, or a frame, which is a
marker line and its payload. -/
inductive WireUnit where
  | line (seg : List Byte)
  | frame (seg payload : List Byte)
deriving DecidableEq, Repr

/-- The bytes of a unit on the wire. -/
def wireBytes (c : Config) : WireUnit → List Byte
  | .line seg => seg ++ [c.lineTerminator]
  | .frame seg payload => seg ++ [c.lineTerminator] ++ payload

/-- A unit as 30_encoding.md R63 and R66 define it, with lines within `LINE_BUF_CAP`. -/
def unitWf (c : Config) : WireUnit → Prop
  | .line seg => c.lineTerminator ∉ seg ∧ lineFits c seg.length = true ∧ ¬ (utf8Valid seg = true ∧ isMarker c seg = true)
  | .frame seg payload =>
    c.lineTerminator ∉ seg ∧ lineFits c seg.length = true ∧ utf8Valid seg = true ∧ isMarker c seg = true ∧
      payload.length = c.frameBytes

/-- The one event a complete unit gives (40_decoder_symbols.md R105). -/
def unitEvent (c : Config) : WireUnit → DecodedEvent
  | .line seg => if utf8Valid seg then .logLine seg else .decodeError (.invalidEncoding seg)
  | .frame _ payload => .imageFrame payload c.width c.height

/-- A character of the UTF-8 table (30_encoding.md R68): its bytes lie, one by one, in the ranges of some row. -/
def IsUtf8Char (ch : List Byte) : Prop := ∃ row ∈ utf8Table, List.Forall₂ (fun r b => inRange r b = true) row ch

/-- The operation is one the state's mode can select (30_encoding.md R62). -/
def selectable (c : Config) (m : Mode) (i : Instr) : Prop := ∃ sym, selectOp c m sym = i

/-- The five stream operations (30_encoding.md R62). -/
def isStreamOp : Instr → Bool
  | .tLf => true
  | .tChar _ => true
  | .tEos => true
  | .aData _ => true
  | .aEos => true
  | .reset => false
  | .unpack _ _ _ => false
  | .disconnect => false

end Sys2Proof.Machine
end

