-- ==== Sys2Proof/Certificates/Slice0/Obligations.lean ====
section
/-! DEFINITION. The statements for the provers. Each docstring names the rule of spec/ it formalises, or says that it is
derived and from what. Claims about one operation are for every legal configuration, not only this hardware's. -/

open Sys2Proof Sys2Proof.Machine

/-! ### Operations in TextMode -/

/-- R91: `T.CHAR` appends its byte to `linebuf` and does nothing else. -/
def Obligations.TCharAppendsByteToLine : Prop :=
  ∀ (s : State) (d : DecoderState) (b : Byte), Ready .textMode s d → b ≠ s.cfg.lineTerminator →
    lineFits s.cfg (d.linebuf.length + 1) = true →
    exec (.tChar b) s = .next { s with dec := some { d with linebuf := d.linebuf ++ [b] } }

/-- Derived from R91 and R13: the one byte `T.CHAR` stores is at the end of `linebuf`; every other byte of the two
buffers reads as before. -/
def Obligations.TCharStoresOnlyAtLineEnd : Prop :=
  ∀ (s s' : State) (b : Byte), exec (.tChar b) s = .next s' →
    memRead .linebuf (spaceBytes .linebuf s).length s' = some b ∧
    (∀ a, a ≠ (spaceBytes .linebuf s).length → memRead .linebuf a s' = memRead .linebuf a s) ∧
    (∀ a, memRead .framebuf a s' = memRead .framebuf a s)

/-- Derived from R92 and R95, with the text of the `LogLine` as decision D8 has it (log entry 16): `T.LF` tests validity
first and the marker second, has exactly one of its three outcomes, and empties `linebuf` in each. -/
def Obligations.TLfTestsInOrderAndClearsLine : Prop :=
  ∀ (s : State) (d : DecoderState), Ready .textMode s d →
    ∃ (s' : State) (d' : DecoderState), exec .tLf s = .next s' ∧ s'.dec = some d' ∧ d'.linebuf = [] ∧ d'.framebuf = [] ∧
      (if utf8Valid d.linebuf = false then
        d'.mode = .textMode ∧ d'.remaining = 0 ∧
          ∃ e, errorKind e = .invalidEncoding ∧ s'.events = s.events ++ [.decodeError e]
      else if isMarker s.cfg d.linebuf = true then
        d'.mode = .awaitingImageBytes ∧ d'.remaining = s.cfg.frameBytes ∧ s'.events = s.events
      else
        d'.mode = .textMode ∧ d'.remaining = 0 ∧ s'.events = s.events ++ [.logLine d.linebuf])

/-- Derived from R93 (its second field is decision D10) and R137, R138 (decisions D16, D19): an invalid segment, whether
or not it begins with the marker, goes out whole as one `InvalidEncoding` error to the text sink and leaves the reset
state. -/
def Obligations.TLfReportsInvalidSegment : Prop :=
  ∀ (s : State) (d : DecoderState), Ready .textMode s d → utf8Valid d.linebuf = false →
    exec .tLf s = .next { s with
      dec := some ⟨.textMode, 0, [], []⟩
      events := s.events ++ [.decodeError (.invalidEncoding d.linebuf)]
      sinks := s.sinks ++ [.text (.error (.invalidEncoding d.linebuf))] }

/-- R94: the marker outcome switches mode, loads the count, and emits nothing. -/
def Obligations.TLfMarkerStartsFrame : Prop :=
  ∀ (s : State) (d : DecoderState), Ready .textMode s d → utf8Valid d.linebuf = true →
    isMarker s.cfg d.linebuf = true →
    exec .tLf s = .next { s with dec := some ⟨.awaitingImageBytes, s.cfg.frameBytes, [], []⟩ }

/-- Derived from R95, which takes its text from R69 and R77 (decision D8; log entry 16): a valid segment that is no marker
goes out unmodified as one `LogLine`. -/
def Obligations.TLfEmitsLogLine : Prop :=
  ∀ (s : State) (d : DecoderState), Ready .textMode s d → utf8Valid d.linebuf = true →
    isMarker s.cfg d.linebuf = false →
    ∃ items, exec .tLf s = .next { s with
      dec := some { d with linebuf := [] }
      events := s.events ++ [.logLine d.linebuf]
      sinks := s.sinks ++ items }

/-- Derived from R96, which is decision D9 of the spec ("no event and no state change"): `T.EOS` holds the whole state. -/
def Obligations.TEosHoldsState : Prop :=
  ∀ (s : State) (d : DecoderState), Ready .textMode s d → exec .tEos s = .next s

/-! ### Operations in AwaitingImageBytes -/

/-- R97 and R98: `A.DATA` appends and counts down; the byte that brings the count to 0 emits the whole frame, clears the
payload buffer and returns to `TextMode`. -/
def Obligations.ADataCountsAndCompletesFrame : Prop :=
  ∀ (s : State) (d : DecoderState) (b : Byte), Ready .awaitingImageBytes s d →
    (2 ≤ d.remaining → exec (.aData b) s = .next { s with
      dec := some { d with framebuf := d.framebuf ++ [b], remaining := d.remaining - 1 } }) ∧
    (d.remaining = 1 → ∃ items, exec (.aData b) s = .next { s with
      dec := some { d with mode := .textMode, remaining := 0, framebuf := [] }
      events := s.events ++ [.imageFrame (d.framebuf ++ [b]) s.cfg.width s.cfg.height]
      sinks := s.sinks ++ items })

/-- Derived from R97 and R13: while the frame goes on, the one byte `A.DATA` stores is at the end of `framebuf`; every
other byte of the two buffers reads as before. -/
def Obligations.ADataStoresOnlyAtFrameEnd : Prop :=
  ∀ (s s' : State) (d : DecoderState) (b : Byte), s.dec = some d → 2 ≤ d.remaining → exec (.aData b) s = .next s' →
    memRead .framebuf d.framebuf.length s' = some b ∧
    (∀ a, a ≠ d.framebuf.length → memRead .framebuf a s' = memRead .framebuf a s) ∧
    (∀ a, memRead .linebuf a s' = memRead .linebuf a s)

/-- R99: `A.EOS` reports how many payload bytes had arrived and puts all fields at their reset values. -/
def Obligations.AEosReportsTruncatedFrame : Prop :=
  ∀ (s : State) (d : DecoderState), Ready .awaitingImageBytes s d →
    ∃ items, exec .aEos s = .next { s with
      dec := some ⟨.textMode, 0, [], []⟩
      events := s.events ++ [.decodeError (.truncatedFrame (s.cfg.frameBytes - d.remaining))]
      sinks := s.sinks ++ items }

/-! ### Lifecycle -/

/-- Derived from R135 and R35 (decision D12): `RESET` gives the four reset values whatever the state was, absent or
ill-formed included, and emits nothing. -/
def Obligations.ResetGivesResetValues : Prop :=
  ∀ (s : State), s.cfg.wf → exec .reset s = .next { s with dec := some ⟨.textMode, 0, [], []⟩ }

/-- Derived from R136 (decision D12): `DISCONNECT` makes the state absent whatever it was, and emits nothing. -/
def Obligations.DisconnectDiscardsState : Prop :=
  ∀ (s : State), s.cfg.wf → exec .disconnect s = .next { s with dec := none }

/-- Derived from R136 (decision D12): `DISCONNECT` followed by `RESET` is indistinguishable from `RESET` alone. -/
def Obligations.DisconnectThenResetIsReset : Prop :=
  ∀ (s : State), andThen (exec .disconnect s) (exec .reset) = exec .reset s

/-- Derived from R35 (decision D12) and R7 (the parameters of this hardware; the empty queue and histories are the model's
own, log entry 26): the state after reset. -/
def Obligations.ResetStateIsAsSpecified : Prop :=
  State.reset = ⟨⟨800, 480, 48000, [0x49, 0x4D, 0x47, 0x5F, 0x53, 0x54, 0x41, 0x52, 0x54], 0x0A, .prefixMatch, none, 16⟩,
    some ⟨.textMode, 0, [], []⟩, [], [], [], []⟩

/-! ### The unpacker -/

/-- R122 (and R120, R121 for the grid's shape): `UNPACK` answers its caller with `ShapeError` exactly when
`8*len(payload) != width*height`, with a grid of the declared shape otherwise, and changes nothing else. -/
def Obligations.UnpackShapeErrorExactlyOnMismatch : Prop :=
  ∀ (s : State) (payload : List Byte) (width height : Nat), s.cfg.wf →
    (8 * payload.length ≠ width * height →
      exec (.unpack payload width height) s = .next { s with results := s.results ++ [.shapeError] }) ∧
    (8 * payload.length = width * height → ∃ g, unpack payload width height = .grid g ∧
      g.width = width ∧ g.height = height ∧ gridWf g ∧
      exec (.unpack payload width height) s = .next { s with results := s.results ++ [.grid g] })

/-- R67: every pixel of an unpacked grid is the payload bit at `byte_index`, `bit_index`, 0 dark and 1 light, for every
width; and the byte is one of the payload's. -/
def Obligations.UnpackPixelIsIndexedBit : Prop :=
  ∀ (payload : List Byte) (width height x y : Nat) (g : PixelGrid), unpack payload width height = .grid g →
    x < width → y < height →
    ∃ v : Byte, payload[(y * width + x) / 8]? = some v ∧
      gridPixel g x y = some (if v.toNat / 2 ^ (7 - x % 8) % 2 = 0 then .dark else .light)

/-- Derived from R123: an all-zero payload is an all-dark image and an all-ones payload an all-light one. -/
def Obligations.UnpackPolarityIsInverted : Prop :=
  ∀ (payload : List Byte) (width height : Nat) (g : PixelGrid), unpack payload width height = .grid g →
    ((∀ b ∈ payload, b = 0x00) → ∀ row ∈ g.rows, ∀ p ∈ row, p = Pixel.dark) ∧
    ((∀ b ∈ payload, b = 0xFF) → ∀ row ∈ g.rows, ∀ p ∈ row, p = Pixel.light)

/-- Derived from R125: for a width that is a multiple of 8, byte `k` of row `y` scatters to the eight pixels from column
`8k`, bit 7 first. -/
def Obligations.UnpackScattersRowBytes : Prop :=
  ∀ (payload : List Byte) (rowBytes height y k j : Nat) (g : PixelGrid), unpack payload (8 * rowBytes) height = .grid g →
    y < height → k < rowBytes → j < 8 →
    ∃ v : Byte, payload[y * rowBytes + k]? = some v ∧
      gridPixel g (8 * k + j) y = some (if v.getLsbD (7 - j) then .light else .dark)

/-- Derived from R126: `pack` puts the pixel `G[y][x]` in bit `7 - (x mod 8)` of byte `(y*width + x) div 8`, 0 for dark. -/
def Obligations.PackPlacesEveryPixel : Prop :=
  ∀ (g : PixelGrid) (x y : Nat), gridWf g → g.width % 8 = 0 → x < g.width → y < g.height →
    ∃ v : Byte, (pack g)[(y * g.width + x) / 8]? = some v ∧
      gridPixel g x y = some (if bit v (7 - x % 8) = 0 then .dark else .light)

/-- Derived from R126: packing a grid whose width is a multiple of 8 and unpacking it gives the grid. -/
def Obligations.UnpackAfterPackIsIdentity : Prop :=
  ∀ (g : PixelGrid), gridWf g → g.width % 8 = 0 → unpack (pack g) g.width g.height = .grid g

/-- Derived from R126 and R125: unpacking a payload at a width that is a multiple of 8 and packing the grid gives the
payload. -/
def Obligations.PackAfterUnpackIsIdentity : Prop :=
  ∀ (payload : List Byte) (width height : Nat) (g : PixelGrid), width % 8 = 0 →
    unpack payload width height = .grid g → pack g = payload

/-! ### UTF-8, code points, the marker -/

/-- Derived from R68 (decision D7; log entry 13): `utf8_valid` is exactly being a concatenation of characters of the
table. -/
def Obligations.Utf8ValidIsTableConcatenation : Prop :=
  ∀ (seg : List Byte), utf8Valid seg = true ↔ ∃ chars : List (List Byte), seg = chars.flatten ∧ ∀ ch ∈ chars, IsUtf8Char ch

/-- Derived from R68 (general knowledge GK5): 0x0A is always a whole character, so cutting at it cuts no character. -/
def Obligations.LineFeedNeverCutsCharacter : Prop :=
  ∀ (a b : List Byte), utf8Valid (a ++ 0x0A :: b) = (utf8Valid a && utf8Valid b)

/-- Derived from R69 (general knowledge GK2, decision D8; log entry 16): a valid segment has code points, and two segments
with the same code points are the same bytes. -/
def Obligations.CodePointsAreOneToOne : Prop :=
  (∀ (seg : List Byte), utf8Valid seg = true → ∃ ps, codePoints seg = some ps) ∧
  (∀ (a b : List Byte) (ps : List Nat), codePoints a = some ps → codePoints b = some ps → a = b)

/-- Derived from R65 (decision D4): the two readings of the marker test, and where they differ. -/
def Obligations.MarkerReadingsDifferOnLongerLines : Prop :=
  ∀ (c : Config) (seg : List Byte),
    (c.markerMatch = .prefixMatch → (isMarker c seg = true ↔ ∃ rest, seg = c.marker ++ rest)) ∧
    (c.markerMatch = .exactMatch → (isMarker c seg = true ↔ seg = c.marker)) ∧
    (isMarker { c with markerMatch := .prefixMatch } seg ≠ isMarker { c with markerMatch := .exactMatch } seg ↔
      ∃ first rest, seg = c.marker ++ first :: rest)

/-! ### Decoding -/

/-- Derived from R62, in the operation words and request codes of R76 (decision D3) with the operands of `UNPACK` beside the
word (the model's choice, log entry 11): which operation each (mode, symbol) pair and each request selects; no byte but the
terminator is special, and that one only in `TextMode`. -/
def Obligations.ModeAndSymbolSelectOperation : Prop :=
  ∀ (c : Config) (ops : UnpackOperands) (b : Byte),
    decode c ⟨streamWord .textMode (.byte c.lineTerminator), ops⟩ = .tLf ∧
    (b ≠ c.lineTerminator → decode c ⟨streamWord .textMode (.byte b), ops⟩ = .tChar b) ∧
    decode c ⟨streamWord .textMode .eos, ops⟩ = .tEos ∧
    decode c ⟨streamWord .awaitingImageBytes (.byte b), ops⟩ = .aData b ∧
    decode c ⟨streamWord .awaitingImageBytes .eos, ops⟩ = .aEos ∧
    decode c ⟨requestWord 1, ops⟩ = .reset ∧
    decode c ⟨requestWord 2, ops⟩ = .unpack ops.payload ops.width ops.height ∧
    decode c ⟨requestWord 3, ops⟩ = .disconnect

/-- Derived from R76 (decision D3): the decoder selects, for each of the 4096 words, the first matching row of the table. -/
def Obligations.DecodeFollowsFirstMatchingRow : Prop :=
  ∀ (c : Config) (p : Packet), (firstRow c p.word).map TableRow.mnemonic = some (decode c p).mnemonic

/-- Derived from R76 (decision D3) and R62 (operands beside the word: log entry 11): decoding an encoded well-formed
operation, with any operands, gives it back. -/
def Obligations.DecodeOfEncodeIsIdentity : Prop :=
  ∀ (c : Config) (i : Instr), i.wf c → decode c (encode c i) = i

/-- Derived from R60 (decision D2): a symbol survives its 9-bit word, and `data` is ignored when `eos` is 1. -/
def Obligations.SymbolWordCarriesSymbol : Prop :=
  (∀ sym : Symbol, symbolOfWord sym.toWord = sym) ∧ (∀ w : SymbolWord, 2 ^ 8 ≤ w.toNat → symbolOfWord w = .eos)

/-- Derived from the rows of spec/opcode_table.json (packaging: log entry 11): a word of each row decodes to the row's
operation. -/
def Obligations.TableWordsDecode : Prop :=
  decodeTableWord 16 0x00A = some .tLf ∧ decodeTableWord 16 0x068 = some (.tChar 0x68) ∧
  decodeTableWord 16 0x100 = some .tEos ∧ decodeTableWord 16 0x20A = some (.aData 0x0A) ∧
  decodeTableWord 16 0x300 = some .aEos ∧ decodeTableWord 16 0x400 = some .reset ∧
  decodeTableWord 16 0x800 = some (.unpack [] 0 0) ∧ decodeTableWord 16 0xC00 = some .disconnect ∧
  decodeTableWord 16 0x1000 = none

/-! ### The step, `feed`, `run` -/

/-- Derived from R62, R90: when the oldest input's packet decodes to `i`, the step consumes the input and is `exec i`. The
queue of inputs is the model's (log entry 1). -/
def Obligations.StepRunsDecodedInstruction : Prop :=
  ∀ (s : State) (input : Input) (rest : List Input) (p : Packet) (i : Instr), s.pending = input :: rest →
    packetFor input s.dec = some p → decode s.cfg p = i → step s = exec i { s with pending := rest }

/-- Derived from R163 and R27 (log entry 2): with no input delivered, the block is idle and its state is held. -/
def Obligations.IdleStepHoldsState : Prop := ∀ (s : State), s.pending = [] → step s = .next s

/-- Derived from R76 (log entry 12): a word delivered with `withFetchWord` is what the very next step runs. -/
def Obligations.DeliveredWordRunsNext : Prop :=
  ∀ (s : State) (w : Nat) (i : Instr), s.cfg = Config.thisHardware → decodeTableWord 16 w = some i →
    step (s.withFetchWord 16 w) = exec i { s.withFetchWord 16 w with pending := s.pending }

/-- R90: in every well-formed state every symbol has a result: the selected operation's, with at most one event (the line
buffer being unbounded, as this hardware's is). -/
def Obligations.EverySymbolIsAccepted : Prop :=
  ∀ (s : State) (d : DecoderState) (sym : Symbol), s.cfg.wf → s.cfg.lineBufCap = none → s.dec = some d → d.wf s.cfg →
    perform (.symbol sym) s = exec (selectOp s.cfg d.mode sym) s ∧
    ∃ (s' : State) (out : Option DecodedEvent), perform (.symbol sym) s = .next s' ∧ s'.events = s.events ++ out.toList

/-- Derived from R106: the mode, the count and the event after every symbol are the transition table's. -/
def Obligations.SymbolsFollowTransitionTable : Prop :=
  ∀ (s : State) (d : DecoderState) (sym : Symbol), s.cfg.wf → s.dec = some d → d.wf s.cfg →
    lineFits s.cfg (d.linebuf.length + 1) = true →
    ∃ (s' : State) (d' : DecoderState), perform (.symbol sym) s = .next s' ∧ s'.dec = some d' ∧
      (d'.mode, d'.remaining) = ((transition s.cfg d sym).1, (transition s.cfg d sym).2.1) ∧
      s'.events = s.events ++ (transition s.cfg d sym).2.2.toList

/-- Derived from R102: an event comes only from the terminator in `TextMode`, the completing byte of a frame, or `EOS`
in a frame. -/
def Obligations.OnlyThreeSymbolsEmit : Prop :=
  ∀ (s s' : State) (d : DecoderState) (sym : Symbol), s.dec = some d → perform (.symbol sym) s = .next s' →
    s'.events ≠ s.events →
    (d.mode = .textMode ∧ sym = .byte s.cfg.lineTerminator) ∨
    (d.mode = .awaitingImageBytes ∧ d.remaining = 1 ∧ ∃ b, sym = .byte b) ∨
    (d.mode = .awaitingImageBytes ∧ sym = .eos)

/-- R100: `feed` is the steps of the chunk's bytes in order, and the empty chunk is a no-op. -/
def Obligations.FeedIsBytesInOrder : Prop :=
  ∀ (s : State), feed [] s = .next s ∧
    ∀ (b : Byte) (rest : List Byte), feed (b :: rest) s = andThen (perform (.symbol (.byte b)) s) (feed rest)

/-- Derived from R101: the cut of a byte stream into chunks has no effect on state, events or refusals. -/
def Obligations.ChunkBoundariesAreInvisible : Prop :=
  ∀ (chunks : List (List Byte)) (s : State), feedChunks chunks s = feed chunks.flatten s

/-- The queue and one step per queued input are the model's choice (log entry 1); the order is derived from R53 and R104:
stepping the machine once per queued input is performing the inputs in order. -/
def Obligations.SteppingRunsQueueInOrder : Prop :=
  ∀ (inputs rest : List Input) (s : State),
    Host.Core.run Sys2Proof.core inputs.length (s.setPending (inputs ++ rest)) = performAll inputs (s.setPending rest)

/-- Derived from R10 and R31: what a run does depends on the configuration and the decoder's state alone, and what was
queued, emitted or returned before is only carried along. The queue and the histories are the model's own fields (log
entries 1 and 3). -/
def Obligations.HistoryDoesNotInfluenceRun : Prop :=
  ∀ (inputs : List Input) (s : State),
    performAll inputs s = mapNext (afterHistory s) (performAll inputs (bare s))

/-! ### Whole streams -/

/-- Derived from R97, R98 and R103: in a frame the next `remaining` bytes are payload whatever their values; fewer are
only stored and counted, and exactly that many give one `ImageFrame` and the reset state. That the grid reaches the image sink
there is R137 (decision D16; log entry 21). -/
def Obligations.PayloadBytesAreCountedNotRead : Prop :=
  ∀ (s : State) (d : DecoderState) (chunk : List Byte), Ready .awaitingImageBytes s d →
    (chunk.length < d.remaining → feed chunk s = .next { s with
      dec := some { d with framebuf := d.framebuf ++ chunk, remaining := d.remaining - chunk.length } }) ∧
    (chunk.length = d.remaining → ∃ g, unpack (d.framebuf ++ chunk) s.cfg.width s.cfg.height = .grid g ∧
      feed chunk s = .next { s with
        dec := some ⟨.textMode, 0, [], []⟩
        events := s.events ++ [.imageFrame (d.framebuf ++ chunk) s.cfg.width s.cfg.height]
        sinks := s.sinks ++ [.image g] })

/-- Derived from R105: complete lines and frames fed from the reset state give exactly one event each, in order, and end
in the reset state. What a `LogLine` carries is decision D8 (log entry 16), what an `InvalidEncoding` error carries decision
D10. -/
def Obligations.CompleteStreamGivesOneEventPerUnit : Prop :=
  ∀ (units : List WireUnit) (s : State), s.cfg.wf → s.dec = some DecoderState.reset →
    (∀ u ∈ units, unitWf s.cfg u) →
    ∃ s', feed (units.flatMap (wireBytes s.cfg)) s = .next s' ∧ s'.dec = some DecoderState.reset ∧
      s'.events = s.events ++ units.map (unitEvent s.cfg)

/-- Derived from R105 and R99: a marker line, fewer bytes than a frame and `EOS` give exactly one `TruncatedFrame`, no
`ImageFrame`, and the reset state. -/
def Obligations.ShortFrameGivesOneTruncatedError : Prop :=
  ∀ (s : State) (seg part : List Byte), s.cfg.wf → s.dec = some DecoderState.reset →
    s.cfg.lineTerminator ∉ seg → lineFits s.cfg seg.length = true → utf8Valid seg = true → isMarker s.cfg seg = true →
    part.length < s.cfg.frameBytes →
    ∃ s', run ((seg ++ [s.cfg.lineTerminator] ++ part).map .byte ++ [.eos]) s = .next s' ∧
      s'.dec = some DecoderState.reset ∧ s'.events = s.events ++ [.decodeError (.truncatedFrame part.length)]

/-! ### Invariants, frames, errors, refusals -/

/-- Derived from R25, R70, R121, R137, R142: every step keeps the invariant, from every state that has it. -/
def Obligations.StepKeepsMachineInvariant : Prop :=
  ∀ (s s' : State), MachineInv s → step s = .next s' → MachineInv s'

/-- Derived from R35 and R25: the invariant holds after reset (the histories, empty there, are the model's: log entry 26). -/
def Obligations.ResetHasMachineInvariant : Prop := MachineInv State.reset

/-- Derived from R22 and R7 (decision D11): the count fits in `CNT_BITS` bits, and no smaller width would hold
`FRAME_BYTES`. -/
def Obligations.CounterFitsItsWidth : Prop :=
  ∀ (c : Config) (d : DecoderState), c.wf → d.wf c →
    d.remaining < 2 ^ c.cntBits ∧ c.frameBytes < 2 ^ c.cntBits ∧ 2 ^ (c.cntBits - 1) ≤ c.frameBytes

/-- Derived from R21 to R24, R29, R91, R102, R135, R136, R153, and R96 for `T.EOS` (decision D9; log entry 15): what each
operation leaves unchanged. No operation writes the configuration or takes from the queue (the queue and the histories are
the model's own fields, log entries 1 and 3); only `UNPACK` answers its caller, and it touches nothing else; `T.CHAR`,
`T.EOS`, `RESET` and `DISCONNECT` emit nothing; an operation in `TextMode` leaves every byte of `framebuf`, and one in a
frame every byte of `linebuf`. -/
def Obligations.OperationsChangeOnlyTheirFields : Prop :=
  ∀ (i : Instr) (s s' : State), exec i s = .next s' →
    s'.cfg = s.cfg ∧ s'.pending = s.pending ∧
    ((∀ p w h, i ≠ .unpack p w h) → s'.results = s.results) ∧
    ((∃ p w h, i = .unpack p w h) → s'.dec = s.dec) ∧
    ((i = .tEos ∨ i = .reset ∨ i = .disconnect ∨ (∃ b, i = .tChar b) ∨ (∃ p w h, i = .unpack p w h)) →
      s'.events = s.events ∧ s'.sinks = s.sinks) ∧
    ((i = .tEos ∨ i = .tLf ∨ ∃ b, i = .tChar b) → ∀ a, memRead .framebuf a s' = memRead .framebuf a s) ∧
    ((i = .aEos ∨ ∃ b, i = .aData b) → ∀ a, memRead .linebuf a s' = memRead .linebuf a s)

/-- R157: after either decoder error the state is the reset state and the next symbol is decoded normally, in `TextMode`. -/
def Obligations.ErrorsLeaveDecoderUsable : Prop :=
  ∀ (i : Instr) (s s' : State) (e : DecodeError), exec i s = .next s' → s'.events = s.events ++ [.decodeError e] →
    s'.dec = some ⟨.textMode, 0, [], []⟩ ∧
    ∀ sym, lineFits s.cfg 1 = true →
      perform (.symbol sym) s' = exec (selectOp s.cfg .textMode sym) s' ∧ ∃ s'', perform (.symbol sym) s' = .next s''

/-- Derived from R137, R138, R139 and R158 (decisions D16, D19): in the step that emits it, each event reaches its sink
and the other sink gets nothing: a line or an error the text sink, a frame's one grid the image sink. -/
def Obligations.EveryEventReachesItsSink : Prop :=
  ∀ (i : Instr) (s s' : State), exec i s = .next s' →
    (∀ text, s'.events = s.events ++ [.logLine text] →
      textSink s' = textSink s ++ [.text text] ∧ imageSink s' = imageSink s) ∧
    (∀ e, s'.events = s.events ++ [.decodeError e] →
      textSink s' = textSink s ++ [.error e] ∧ imageSink s' = imageSink s) ∧
    (∀ payload width height, s'.events = s.events ++ [.imageFrame payload width height] →
      textSink s' = textSink s ∧
        ∃ g, unpack payload width height = .grid g ∧ imageSink s' = imageSink s ++ [g])

/-- Derived from R139: no operation in any state ends in a fault; the unpacker never fails on the decoder's frame. -/
def Obligations.NoOperationFaults : Prop := ∀ (i : Instr) (s : State) (why : Fault), exec i s ≠ .fault why

/-- Derived from 93_implementation_defined.md U1, U3, U4, U6 and R62: an operation is refused only for a reason the spec
gives. -/
def Obligations.RefusalsHaveStatedCauses : Prop :=
  ∀ (i : Instr) (s : State) (why : Refusal), exec i s = .refused why →
    (why = .badConfiguration ∧ ¬ s.cfg.wf) ∨
    (isStreamOp i = true ∧ why = .noDecoderState ∧ s.dec = none) ∨
    (∃ d, s.dec = some d ∧ isStreamOp i = true ∧
      ((why = .illFormedState ∧ ¬ d.wf s.cfg) ∨
       (why = .notSelected ∧ ¬ selectable s.cfg d.mode i) ∨
       (why = .lineBufferOverflow ∧ (∃ b, i = .tChar b) ∧ lineFits s.cfg (d.linebuf.length + 1) = false)))

/-- Derived from 93_implementation_defined.md U6 and R136: a symbol with no decoder state is refused, before any RESET and
after a DISCONNECT alike. -/
def Obligations.SymbolWithoutStateIsRefused : Prop :=
  ∀ (s : State) (sym : Symbol), s.cfg.wf →
    (s.dec = none → perform (.symbol sym) s = .refused .noDecoderState) ∧
    andThen (perform .disconnect s) (perform (.symbol sym)) = .refused .noDecoderState

/-- Derived from 93_implementation_defined.md U3 and U4 (R8, R25): an illegal configuration refuses every operation, an
ill-formed state every stream operation. -/
def Obligations.IllFormedMachineIsRefused : Prop :=
  ∀ (i : Instr) (s : State),
    (¬ s.cfg.wf → exec i s = .refused .badConfiguration) ∧
    (∀ d, s.cfg.wf → s.dec = some d → ¬ d.wf s.cfg → isStreamOp i = true → exec i s = .refused .illFormedState)

/-- Derived from 93_implementation_defined.md U1 (R7): with a finite `LINE_BUF_CAP`, the byte that would exceed it is
refused, not dropped. -/
def Obligations.LineBeyondCapacityIsRefused : Prop :=
  ∀ (s : State) (d : DecoderState) (b : Byte) (cap : Nat), Ready .textMode s d → b ≠ s.cfg.lineTerminator →
    s.cfg.lineBufCap = some cap → d.linebuf.length = cap → exec (.tChar b) s = .refused .lineBufferOverflow
end

