-- ==== Sys2Proof/Laws/Decode.lean ====
section
/-! SUPPORT. The bit fields of operation words and symbol words (30_encoding.md R60, R76). -/

namespace Sys2Proof

theorem Symbol.toWord_toNat_byte (b : Byte) : (Symbol.byte b).toWord.toNat = b.toNat := by
  have := b.isLt
  simp only [Symbol.toWord, BitVec.toNat_ofNat]
  omega

theorem Symbol.toWord_toNat_eos : Symbol.eos.toWord.toNat = 256 := rfl

theorem streamWord_toNat (m : Mode) (sym : Symbol) : (streamWord m sym).toNat = m.toBit * 512 + sym.toWord.toNat := by
  have := sym.toWord.isLt
  simp only [streamWord, BitVec.toNat_ofNat]
  cases m <;> simp only [Mode.toBit] <;> omega

theorem streamWord_req (m : Mode) (sym : Symbol) : reqField (streamWord m sym) = 0 := by
  have := sym.toWord.isLt
  simp only [reqField, bitField, streamWord_toNat]
  cases m <;> simp only [Mode.toBit] <;> omega

theorem streamWord_mode (m : Mode) (sym : Symbol) : modeField (streamWord m sym) = m.toBit := by
  have := sym.toWord.isLt
  simp only [modeField, bitField, streamWord_toNat]
  cases m <;> simp only [Mode.toBit] <;> omega

theorem streamWord_symbol (m : Mode) (sym : Symbol) : symbolField (streamWord m sym) = sym.toWord := by
  have := sym.toWord.isLt
  apply BitVec.eq_of_toNat_eq
  simp only [symbolField, bitField, streamWord_toNat, BitVec.toNat_ofNat]
  cases m <;> simp only [Mode.toBit] <;> omega

theorem requestWord_req {req : Nat} (h : req < 4) : reqField (requestWord req) = req := by
  simp only [reqField, bitField, requestWord, BitVec.toNat_ofNat]
  omega

theorem modeOfBit_toBit (m : Mode) : modeOfBit m.toBit = m := by cases m <;> rfl

end Sys2Proof
end

