-- ==== Sys2Proof/Laws/State.lean ====
section
/-! SUPPORT. One lemma per field per update of `State` and of `DecoderState`, true by unfolding. -/

namespace Sys2Proof.Machine

variable (s : State)

@[simp] theorem State.setDec_cfg (d : DecoderState) : (s.setDec d).cfg = s.cfg := rfl
@[simp] theorem State.setDec_dec (d : DecoderState) : (s.setDec d).dec = some d := rfl
@[simp] theorem State.setDec_pending (d : DecoderState) : (s.setDec d).pending = s.pending := rfl
@[simp] theorem State.setDec_events (d : DecoderState) : (s.setDec d).events = s.events := rfl
@[simp] theorem State.setDec_sinks (d : DecoderState) : (s.setDec d).sinks = s.sinks := rfl
@[simp] theorem State.setDec_results (d : DecoderState) : (s.setDec d).results = s.results := rfl

@[simp] theorem State.dropDec_cfg : (s.dropDec).cfg = s.cfg := rfl
@[simp] theorem State.dropDec_dec : (s.dropDec).dec = none := rfl
@[simp] theorem State.dropDec_pending : (s.dropDec).pending = s.pending := rfl
@[simp] theorem State.dropDec_events : (s.dropDec).events = s.events := rfl
@[simp] theorem State.dropDec_sinks : (s.dropDec).sinks = s.sinks := rfl
@[simp] theorem State.dropDec_results : (s.dropDec).results = s.results := rfl

@[simp] theorem State.setPending_cfg (inputs : List Input) : (s.setPending inputs).cfg = s.cfg := rfl
@[simp] theorem State.setPending_dec (inputs : List Input) : (s.setPending inputs).dec = s.dec := rfl
@[simp] theorem State.setPending_pending (inputs : List Input) : (s.setPending inputs).pending = inputs := rfl
@[simp] theorem State.setPending_events (inputs : List Input) : (s.setPending inputs).events = s.events := rfl
@[simp] theorem State.setPending_sinks (inputs : List Input) : (s.setPending inputs).sinks = s.sinks := rfl
@[simp] theorem State.setPending_results (inputs : List Input) : (s.setPending inputs).results = s.results := rfl

@[simp] theorem State.record_cfg (ev : DecodedEvent) (item : SinkItem) : (s.record ev item).cfg = s.cfg := rfl
@[simp] theorem State.record_dec (ev : DecodedEvent) (item : SinkItem) : (s.record ev item).dec = s.dec := rfl
@[simp] theorem State.record_pending (ev : DecodedEvent) (item : SinkItem) : (s.record ev item).pending = s.pending := rfl
@[simp] theorem State.record_events (ev : DecodedEvent) (item : SinkItem) : (s.record ev item).events = s.events ++ [ev] := rfl
@[simp] theorem State.record_sinks (ev : DecodedEvent) (item : SinkItem) : (s.record ev item).sinks = s.sinks ++ [item] := rfl
@[simp] theorem State.record_results (ev : DecodedEvent) (item : SinkItem) : (s.record ev item).results = s.results := rfl

@[simp] theorem State.addResult_cfg (r : UnpackResult) : (s.addResult r).cfg = s.cfg := rfl
@[simp] theorem State.addResult_dec (r : UnpackResult) : (s.addResult r).dec = s.dec := rfl
@[simp] theorem State.addResult_pending (r : UnpackResult) : (s.addResult r).pending = s.pending := rfl
@[simp] theorem State.addResult_events (r : UnpackResult) : (s.addResult r).events = s.events := rfl
@[simp] theorem State.addResult_sinks (r : UnpackResult) : (s.addResult r).sinks = s.sinks := rfl
@[simp] theorem State.addResult_results (r : UnpackResult) : (s.addResult r).results = s.results ++ [r] := rfl

@[simp] theorem State.setDec_setDec (d d' : DecoderState) : (s.setDec d).setDec d' = s.setDec d' := rfl
@[simp] theorem State.setPending_setPending (a b : List Input) : (s.setPending a).setPending b = s.setPending b := rfl

variable (d : DecoderState) (b : Byte) (c : Config)

@[simp] theorem pushLine_mode : (pushLine d b).mode = d.mode := rfl
@[simp] theorem pushLine_remaining : (pushLine d b).remaining = d.remaining := rfl
@[simp] theorem pushLine_linebuf : (pushLine d b).linebuf = d.linebuf ++ [b] := rfl
@[simp] theorem pushLine_framebuf : (pushLine d b).framebuf = d.framebuf := rfl

@[simp] theorem clearLine_mode : (clearLine d).mode = d.mode := rfl
@[simp] theorem clearLine_remaining : (clearLine d).remaining = d.remaining := rfl
@[simp] theorem clearLine_linebuf : (clearLine d).linebuf = [] := rfl
@[simp] theorem clearLine_framebuf : (clearLine d).framebuf = d.framebuf := rfl

@[simp] theorem startFrame_mode : (startFrame c d).mode = .awaitingImageBytes := rfl
@[simp] theorem startFrame_remaining : (startFrame c d).remaining = c.frameBytes := rfl
@[simp] theorem startFrame_linebuf : (startFrame c d).linebuf = d.linebuf := rfl
@[simp] theorem startFrame_framebuf : (startFrame c d).framebuf = d.framebuf := rfl

@[simp] theorem pushFrame_mode : (pushFrame d b).mode = d.mode := rfl
@[simp] theorem pushFrame_remaining : (pushFrame d b).remaining = d.remaining - 1 := rfl
@[simp] theorem pushFrame_linebuf : (pushFrame d b).linebuf = d.linebuf := rfl
@[simp] theorem pushFrame_framebuf : (pushFrame d b).framebuf = d.framebuf ++ [b] := rfl

@[simp] theorem finishFrame_mode : (finishFrame d).mode = .textMode := rfl
@[simp] theorem finishFrame_remaining : (finishFrame d).remaining = d.remaining := rfl
@[simp] theorem finishFrame_linebuf : (finishFrame d).linebuf = d.linebuf := rfl
@[simp] theorem finishFrame_framebuf : (finishFrame d).framebuf = [] := rfl

@[simp] theorem DecoderState.reset_mode : DecoderState.reset.mode = .textMode := rfl
@[simp] theorem DecoderState.reset_remaining : DecoderState.reset.remaining = 0 := rfl
@[simp] theorem DecoderState.reset_linebuf : DecoderState.reset.linebuf = [] := rfl
@[simp] theorem DecoderState.reset_framebuf : DecoderState.reset.framebuf = [] := rfl

end Sys2Proof.Machine
end

