-- ==== Sys2Proof/Laws/Ops.lean ====
section
/-! SUPPORT. What each shared operation can do, said once. -/

namespace Sys2Proof.Machine

variable {s s' : State} {d : DecoderState} {c : Config} {m : Mode}

/-! ### Going on after a step -/

@[simp] theorem andThen_next (s : State) (f : State → Result) : andThen (.next s) f = f s := rfl
@[simp] theorem andThen_fault (why : Fault) (f : State → Result) : andThen (.fault why) f = .fault why := rfl
@[simp] theorem andThen_refused (why : Refusal) (f : State → Result) : andThen (.refused why) f = .refused why := rfl

theorem andThen_assoc (r : Result) (f g : State → Result) :
    andThen (andThen r f) g = andThen r fun s => andThen (f s) g := by
  cases r <;> rfl

/-! ### Checks -/

theorem Config.wf_iff : c.wf = true ↔
    1 ≤ c.width ∧ 1 ≤ c.height ∧ c.width * c.height % 8 = 0 ∧
      c.frameBytes = c.width * c.height / 8 ∧ 1 ≤ c.frameBytes ∧ c.cntBits = ceilLog2 (c.frameBytes + 1) :=
  decide_eq_true_iff

theorem DecoderState.wf_iff : d.wf c = true ↔
    (d.mode = .textMode → d.remaining = 0 ∧ d.framebuf = []) ∧
    (d.mode = .awaitingImageBytes →
      1 ≤ d.remaining ∧ d.remaining ≤ c.frameBytes ∧ d.linebuf = [] ∧
        d.framebuf.length = c.frameBytes - d.remaining) ∧
    c.lineTerminator ∉ d.linebuf ∧
    lineFits c d.linebuf.length = true :=
  decide_eq_true_iff

theorem configured_of_wf (h : s.cfg.wf) (act : Result) : configured s act = act := if_pos h

theorem configured_of_not_wf (h : ¬ s.cfg.wf) (act : Result) : configured s act = .refused .badConfiguration := if_neg h

theorem configured_eq_next {act : Result} (h : configured s act = .next s') : s.cfg.wf ∧ act = .next s' := by
  unfold configured at h
  split at h
  · exact ⟨‹_›, h⟩
  · cases h

theorem onStream_of_ready (h : Ready m s d) (act : DecoderState → Result) : onStream m s act = act d := by
  obtain ⟨hc, hd, hw, hm⟩ := h
  simp only [onStream, configured_of_wf hc, hd, if_pos hw, if_pos hm]

theorem onStream_eq_next {act : DecoderState → Result} (h : onStream m s act = .next s') :
    ∃ d, Ready m s d ∧ act d = .next s' := by
  obtain ⟨hc, h⟩ := configured_eq_next h
  split at h
  · cases h
  · next d hd =>
    split at h
    · next hw =>
      split at h
      · next hm => exact ⟨d, ⟨hc, hd, hw, hm⟩, h⟩
      · cases h
    · cases h

/-- The outcomes of a stream operation: the four checks in their order, then the operation. -/
theorem onStream_cases (m : Mode) (s : State) (act : DecoderState → Result) :
    (¬ s.cfg.wf ∧ onStream m s act = .refused .badConfiguration) ∨
    (s.cfg.wf ∧ s.dec = none ∧ onStream m s act = .refused .noDecoderState) ∨
    (∃ d, s.cfg.wf ∧ s.dec = some d ∧ ¬ d.wf s.cfg ∧ onStream m s act = .refused .illFormedState) ∨
    (∃ d, s.cfg.wf ∧ s.dec = some d ∧ d.wf s.cfg ∧ d.mode ≠ m ∧ onStream m s act = .refused .notSelected) ∨
    (∃ d, Ready m s d ∧ onStream m s act = act d) := by
  by_cases hc : s.cfg.wf
  · refine .inr ?_
    rcases hd : s.dec with _ | d
    · exact .inl ⟨hc, rfl, by simp only [onStream, configured_of_wf hc, hd]⟩
    · refine .inr ?_
      by_cases hw : d.wf s.cfg
      · refine .inr ?_
        by_cases hm : d.mode = m
        · exact .inr ⟨d, ⟨hc, hd, hw, hm⟩, onStream_of_ready ⟨hc, hd, hw, hm⟩ act⟩
        · exact .inl ⟨d, hc, rfl, hw, hm, by simp only [onStream, configured_of_wf hc, hd, if_pos hw, if_neg hm]⟩
      · exact .inl ⟨d, hc, rfl, hw, by simp only [onStream, configured_of_wf hc, hd, if_neg hw]⟩
  · exact .inl ⟨hc, configured_of_not_wf hc _⟩

/-! ### Events -/

@[simp] theorem sinkItemOf_logLine (t : List Byte) : sinkItemOf (.logLine t) = some (.text (.text t)) := rfl
@[simp] theorem sinkItemOf_decodeError (e : DecodeError) : sinkItemOf (.decodeError e) = some (.text (.error e)) := rfl

theorem emit_of_item {ev : DecodedEvent} {item : SinkItem} (h : sinkItemOf ev = some item) (s : State) :
    emit ev s = .next (s.record ev item) := by simp only [emit, h]

theorem emit_eq_next {ev : DecodedEvent} (h : emit ev s = .next s') :
    ∃ item, sinkItemOf ev = some item ∧ s' = s.record ev item := by
  unfold emit at h
  split at h
  · next item hi => cases h; exact ⟨item, hi, rfl⟩
  · cases h

@[simp] theorem emit_logLine (t : List Byte) (s : State) :
    emit (.logLine t) s = .next (s.record (.logLine t) (.text (.text t))) := rfl

@[simp] theorem takeDecodeError_eq (e : DecodeError) (s : State) :
    takeDecodeError e s = .next ((s.setDec DecoderState.reset).record (.decodeError e) (.text (.error e))) := rfl

/-! ### The unpacker -/

theorem unpack_of_shape {payload : List Byte} {w h : Nat} (hs : 8 * payload.length = w * h) :
    unpack payload w h = .grid ⟨w, h, (List.range h).map fun y => unpackRow payload w y⟩ := if_pos hs

theorem unpack_of_mismatch {payload : List Byte} {w h : Nat} (hs : 8 * payload.length ≠ w * h) :
    unpack payload w h = .shapeError := if_neg hs

theorem unpack_eq_grid {payload : List Byte} {w h : Nat} {g : PixelGrid} (hg : unpack payload w h = .grid g) :
    8 * payload.length = w * h ∧ g = ⟨w, h, (List.range h).map fun y => unpackRow payload w y⟩ := by
  unfold unpack at hg
  split at hg
  · cases hg; exact ⟨‹_›, rfl⟩
  · cases hg

theorem unpackRow_length (payload : List Byte) (w y : Nat) : (unpackRow payload w y).length = w := by
  simp [unpackRow]

/-- A legal configuration's frame passes the shape check (00_scope.md R8; 42_lifecycle_and_pipeline.md R139). -/
theorem Config.frame_shape (h : c.wf) {payload : List Byte} (hl : payload.length = c.frameBytes) :
    8 * payload.length = c.width * c.height := by
  obtain ⟨_, _, hm, hf, _, _⟩ := Config.wf_iff.1 h
  omega

/-! ### The buffers keep the state well-formed (10_state.md R25) -/

theorem lineFits_mono {n k : Nat} (h : lineFits c k = true) (hn : n ≤ k) : lineFits c n = true := by
  unfold lineFits at *
  split at h
  · rfl
  · simp only [decide_eq_true_eq] at *; omega

theorem reset_wf (c : Config) : DecoderState.reset.wf c := by
  refine DecoderState.wf_iff.2 ⟨fun _ => ⟨rfl, rfl⟩, nofun, List.not_mem_nil, ?_⟩
  simp only [lineFits, DecoderState.reset_linebuf, List.length_nil]
  split <;> simp

theorem startFrame_wf (h : c.wf) : (startFrame c DecoderState.reset).wf c := by
  refine DecoderState.wf_iff.2 ⟨nofun, fun _ => ⟨(Config.wf_iff.1 h).2.2.2.2.1, le_refl _, rfl, ?_⟩,
    List.not_mem_nil, (DecoderState.wf_iff.1 (reset_wf c)).2.2.2⟩
  simp [startFrame, DecoderState.reset]

theorem pushLine_wf (h : d.wf c) (hm : d.mode = .textMode) {b : Byte} (hb : b ≠ c.lineTerminator)
    (hf : lineFits c (d.linebuf.length + 1) = true) : (pushLine d b).wf c := by
  have h := DecoderState.wf_iff.1 h
  refine DecoderState.wf_iff.2 ⟨fun _ => h.1 hm, fun h' => ?_, ?_, by simpa using hf⟩
  · simp [hm] at h'
  · simpa [h.2.2.1] using fun e => hb e.symm

theorem pushFrame_wf (h : d.wf c) (hm : d.mode = .awaitingImageBytes) (b : Byte) (hr : 2 ≤ d.remaining) :
    (pushFrame d b).wf c := by
  have h := DecoderState.wf_iff.1 h
  obtain ⟨h1, h2, h3, h4⟩ := h.2.1 hm
  refine DecoderState.wf_iff.2 ⟨fun h' => by simp [hm] at h', fun _ => ⟨?_, ?_, h3, ?_⟩, h.2.2.1, h.2.2.2⟩ <;> simp <;> omega

/-- In `TextMode` a well-formed state is its line buffer and nothing else. -/
theorem DecoderState.eq_of_textMode (h : d.wf c) (hm : d.mode = .textMode) : d = ⟨.textMode, 0, d.linebuf, []⟩ := by
  obtain ⟨hr, hf⟩ := (DecoderState.wf_iff.1 h).1 hm
  cases d
  simp_all

/-- In a frame a well-formed state has an empty line buffer. -/
theorem DecoderState.eq_of_awaiting (h : d.wf c) (hm : d.mode = .awaitingImageBytes) :
    d = ⟨.awaitingImageBytes, d.remaining, [], d.framebuf⟩ := by
  obtain ⟨_, _, hl, _⟩ := (DecoderState.wf_iff.1 h).2.1 hm
  cases d
  simp_all

end Sys2Proof.Machine
end

