-- ==== Sys2Proof/Laws/Exec.lean ====
section
/-! SUPPORT. What each meaning does when it gives a next state, said once per operation. -/

namespace Sys2Proof.Machine

variable {s s' : State}

theorem execTChar_next {b : Byte} (h : execTChar b s = .next s') :
    ∃ d, Ready .textMode s d ∧ b ≠ s.cfg.lineTerminator ∧ lineFits s.cfg (d.linebuf.length + 1) = true ∧
      s' = s.setDec (pushLine d b) := by
  obtain ⟨d, hd, h⟩ := onStream_eq_next h
  split at h
  · cases h
  · next hb =>
    split at h
    · next hf => cases h; exact ⟨d, hd, hb, hf, rfl⟩
    · cases h

theorem execTLf_next (h : execTLf s = .next s') :
    ∃ d, Ready .textMode s d ∧
      ((utf8Valid d.linebuf = false ∧
          s' = (s.setDec DecoderState.reset).record (.decodeError (.invalidEncoding d.linebuf))
            (.text (.error (.invalidEncoding d.linebuf)))) ∨
       (utf8Valid d.linebuf = true ∧ isMarker s.cfg d.linebuf = true ∧
          s' = s.setDec (startFrame s.cfg DecoderState.reset)) ∨
       (utf8Valid d.linebuf = true ∧ isMarker s.cfg d.linebuf = false ∧
          s' = (s.setDec DecoderState.reset).record (.logLine d.linebuf) (.text (.text d.linebuf)))) := by
  obtain ⟨d, hd, h⟩ := onStream_eq_next h
  have hclear : clearLine d = DecoderState.reset := by
    rw [DecoderState.eq_of_textMode hd.2.2.1 hd.2.2.2]; rfl
  refine ⟨d, hd, ?_⟩
  split at h
  · next hv => cases h; exact .inl ⟨hv, rfl⟩
  · next hv =>
    have hv : utf8Valid d.linebuf = true := by simpa using hv
    split at h
    · next hm => cases h; exact .inr (.inl ⟨hv, hm, by rw [hclear]⟩)
    · next hm => cases h; exact .inr (.inr ⟨hv, by simpa using hm, by rw [hclear]⟩)

theorem execTEos_next (h : execTEos s = .next s') : ∃ d, Ready .textMode s d ∧ s' = s := by
  obtain ⟨d, hd, h⟩ := onStream_eq_next h
  cases h
  exact ⟨d, hd, rfl⟩

theorem execAData_next {b : Byte} (h : execAData b s = .next s') :
    ∃ d, Ready .awaitingImageBytes s d ∧
      ((2 ≤ d.remaining ∧ s' = s.setDec (pushFrame d b)) ∨
       (d.remaining = 1 ∧ ∃ g, unpack (d.framebuf ++ [b]) s.cfg.width s.cfg.height = .grid g ∧
          s' = (s.setDec DecoderState.reset).record (.imageFrame (d.framebuf ++ [b]) s.cfg.width s.cfg.height)
            (.image g))) := by
  obtain ⟨d, hd, h⟩ := onStream_eq_next h
  obtain ⟨hpos, _, hl, _⟩ := (DecoderState.wf_iff.1 hd.2.2.1).2.1 hd.2.2.2
  refine ⟨d, hd, ?_⟩
  change (if d.remaining - 1 = 0 then _ else _) = _ at h
  split at h
  · next hr =>
    have hr1 : d.remaining = 1 := by omega
    have hfin : finishFrame (pushFrame d b) = DecoderState.reset := by
      rw [DecoderState.eq_of_awaiting hd.2.2.1 hd.2.2.2, hr1]; rfl
    obtain ⟨item, hi, hs⟩ := emit_eq_next h
    simp only [sinkItemOf] at hi
    split at hi
    · next g hg => cases hi; exact .inr ⟨hr1, g, hg, by rw [hs, hfin]; rfl⟩
    · cases hi
  · next hr => cases h; exact .inl ⟨by omega, rfl⟩

theorem execAEos_next (h : execAEos s = .next s') :
    ∃ d, Ready .awaitingImageBytes s d ∧
      s' = (s.setDec DecoderState.reset).record (.decodeError (.truncatedFrame (s.cfg.frameBytes - d.remaining)))
        (.text (.error (.truncatedFrame (s.cfg.frameBytes - d.remaining)))) := by
  obtain ⟨d, hd, h⟩ := onStream_eq_next h
  cases h
  exact ⟨d, hd, rfl⟩

theorem execReset_next (h : execReset s = .next s') : s.cfg.wf ∧ s' = s.setDec DecoderState.reset := by
  obtain ⟨hc, h⟩ := configured_eq_next h
  cases h
  exact ⟨hc, rfl⟩

theorem execDisconnect_next (h : execDisconnect s = .next s') : s.cfg.wf ∧ s' = s.dropDec := by
  obtain ⟨hc, h⟩ := configured_eq_next h
  cases h
  exact ⟨hc, rfl⟩

theorem execUnpack_next {payload : List Byte} {w k : Nat} (h : execUnpack payload w k s = .next s') :
    s.cfg.wf ∧ s' = s.addResult (unpack payload w k) := by
  obtain ⟨hc, h⟩ := configured_eq_next h
  cases h
  exact ⟨hc, rfl⟩

end Sys2Proof.Machine
end

