-- ==== Sys2Proof/Laws/PerInstr.lean ====
section
/-! SUPPORT. Statements about every operation, one lemma per constructor. `EncodedInRow`: the word `encode` writes for an
operation lies in the operation's own row of spec/opcode_table.json (30_encoding.md R76). -/

namespace Sys2Proof.Laws.EncodedInRow

/-- The encoded word matches the row that bears the operation's name. -/
def Statement (i : Instr) : Prop :=
  ∀ c : Config, ∃ row ∈ opTable c, row.mnemonic = i.mnemonic ∧ row.matchesWord (encode c i).word = true

theorem matchesWord_iff (r : TableRow) (w : OpWord) : r.matchesWord w = true ↔ w.toNat &&& r.mask = r.matchBits :=
  beq_iff_eq

theorem byte_high_bits : ∀ b : Byte, b.toNat &&& 0xF00 = 0 ∧ (512 + b.toNat) &&& 0xF00 = 512 ∧ b.toNat &&& 0xFFF = b.toNat := by
  decide +kernel

theorem tLf : Statement .tLf := fun c => by
  refine ⟨⟨"T.LF", c.lineTerminator.toNat, 0xFFF⟩, by simp [opTable], rfl, (matchesWord_iff _ _).2 ?_⟩
  have := (byte_high_bits c.lineTerminator).2.2
  simpa [encode, streamWord_toNat, Symbol.toWord_toNat_byte, Mode.toBit] using this

theorem tChar (b : Byte) : Statement (.tChar b) := fun c => by
  refine ⟨⟨"T.CHAR", 0x000, 0xF00⟩, by simp [opTable], rfl, (matchesWord_iff _ _).2 ?_⟩
  simpa [encode, streamWord_toNat, Symbol.toWord_toNat_byte, Mode.toBit] using (byte_high_bits b).1

theorem tEos : Statement .tEos := fun c => ⟨⟨"T.EOS", 0x100, 0xF00⟩, by simp [opTable], rfl,
  (matchesWord_iff _ _).2 (by simp [encode, streamWord, Symbol.toWord, Mode.toBit])⟩

theorem aData (b : Byte) : Statement (.aData b) := fun c => by
  refine ⟨⟨"A.DATA", 0x200, 0xF00⟩, by simp [opTable], rfl, (matchesWord_iff _ _).2 ?_⟩
  simpa [encode, streamWord_toNat, Symbol.toWord_toNat_byte, Mode.toBit] using (byte_high_bits b).2.1

theorem aEos : Statement .aEos := fun c => ⟨⟨"A.EOS", 0x300, 0xF00⟩, by simp [opTable], rfl,
  (matchesWord_iff _ _).2 (by simp [encode, streamWord, Symbol.toWord, Mode.toBit])⟩

theorem reset : Statement .reset := fun c => ⟨⟨"RESET", 0x400, 0xC00⟩, by simp [opTable], rfl,
  (matchesWord_iff _ _).2 (by simp [encode, requestWord])⟩

theorem unpack (payload : List Byte) (width height : Nat) : Statement (.unpack payload width height) :=
  fun c => ⟨⟨"UNPACK", 0x800, 0xC00⟩, by simp [opTable], rfl,
  (matchesWord_iff _ _).2 (by simp [encode, requestWord])⟩

theorem disconnect : Statement .disconnect := fun c => ⟨⟨"DISCONNECT", 0xC00, 0xC00⟩, by simp [opTable], rfl,
  (matchesWord_iff _ _).2 (by simp [encode, requestWord])⟩

end Sys2Proof.Laws.EncodedInRow
end

