-- ==== Sys2Proof/Laws/Run.lean ====
section
/-! SUPPORT. One host input, several of them, and the host's run of the machine. -/

namespace Sys2Proof.Machine

variable {s s' : State} {d : DecoderState}

theorem decode_streamWord (c : Config) (m : Mode) (sym : Symbol) (ops : UnpackOperands) :
    decode c ⟨streamWord m sym, ops⟩ = selectOp c m (symbolOfWord sym.toWord) := by
  simp only [decode, streamWord_req, streamWord_mode, streamWord_symbol, modeOfBit_toBit, if_pos]

theorem perform_symbol_of_none (h : s.dec = none) (sym : Symbol) :
    perform (.symbol sym) s = .refused .noDecoderState := by
  simp only [perform, packetFor, h, Option.map_none]

theorem perform_symbol_of_some (h : s.dec = some d) (sym : Symbol) :
    perform (.symbol sym) s = exec (selectOp s.cfg d.mode (symbolOfWord sym.toWord)) s := by
  simp only [perform, packetFor, h, Option.map_some, decode_streamWord]

theorem perform_reset (s : State) : perform .reset s = execReset s := by
  simp [perform, packetFor, decode, requestWord_req, exec]

theorem perform_unpack (s : State) (ops : UnpackOperands) :
    perform (.unpack ops) s = execUnpack ops.payload ops.width ops.height s := by
  simp [perform, packetFor, decode, requestWord_req, exec]

theorem perform_disconnect (s : State) : perform .disconnect s = execDisconnect s := by
  simp [perform, packetFor, decode, requestWord_req, exec]

theorem step_of_pending {input : Input} {rest : List Input} (h : s.pending = input :: rest) :
    step s = perform input (s.setPending rest) := by
  simp only [step, h]

theorem performAll_append (a b : List Input) (s : State) :
    performAll (a ++ b) s = andThen (performAll a s) (performAll b) := by
  induction a generalizing s with
  | nil => rfl
  | cons x a ih =>
    simp only [List.cons_append, performAll, andThen_assoc]
    exact congrArg (andThen (perform x s)) (funext ih)

theorem run_append (a b : List Symbol) (s : State) : run (a ++ b) s = andThen (run a s) (run b) := by
  simp only [run, List.map_append, performAll_append]
  rfl

theorem core_run_succ (k : Nat) (s : State) :
    Host.Core.run Sys2Proof.core (k + 1) s = andThen (step s) (Host.Core.run Sys2Proof.core k) := by
  refine (Host.Core.run.eq_2 Sys2Proof.core s k).trans ?_
  change _ = andThen (Sys2Proof.core.step s) _
  generalize Sys2Proof.core.step s = r
  cases r <;> rfl

end Sys2Proof.Machine
end

