-- ==== Sys2Proof/Tests/Slice0.lean ====
section
/-! SUPPORT. Tests. Expected values come from spec/95_test_vectors.md (its vector is named at each), from the examples in the
rules, or from the encoding of 30_encoding.md R76; then the witnesses: concrete states and operands that meet the hypotheses of
the statements in Certificates/Slice0/Obligations.lean. -/

namespace Sys2Proof.Tests

open Sys2Proof.Machine

/-- The configuration of the vectors in 95_test_vectors.md part 2: `W=16, H=2, FRAME_BYTES=4`. -/
def small : Config := { Config.thisHardware with width := 16, height := 2, frameBytes := 4, cntBits := 3 }

/-- The source's scenario: `W=8, H=1, FRAME_BYTES=1`. -/
def tiny : Config := { Config.thisHardware with width := 8, height := 1, frameBytes := 1, cntBits := 1 }

/-- `small` with a line buffer of two bytes. -/
def capped : Config := { small with lineBufCap := some 2 }

/-- `small` with the other reading of the marker test. -/
def exact : Config := { small with markerMatch := .exactMatch }

/-- `(T,0,l,[])` -/
def text (l : List Byte) : DecoderState := ⟨.textMode, 0, l, []⟩

/-- `(A,n,[],f)` -/
def frame (n : Nat) (f : List Byte) : DecoderState := ⟨.awaitingImageBytes, n, [], f⟩

/-- A machine of a configuration and a decoder state, with nothing queued and nothing emitted. -/
def machine (c : Config) (d : DecoderState) : State := ⟨c, some d, [], [], [], []⟩

/-- What an operation leaves of the decoder's state, and the events. -/
def outcome (r : Result) : Option (Option DecoderState × List DecodedEvent) :=
  match r with
  | .next s => some (s.dec, s.events)
  | .fault _ => none
  | .refused _ => none

/-- `D` and `L` of 95_test_vectors.md, from a row's bits. -/
def pixels (bits : List Nat) : List Pixel := bits.map pixelOfBit

/-! ### Well-formedness: each check accepts a legal term and refuses an ill-formed one (R8, R7, R62, R75, R25) -/

theorem test_config_legal : small.wf = true ∧ tiny.wf = true ∧ capped.wf = true ∧ exact.wf = true := by decide
theorem test_config_thisHardware_legal : Config.thisHardware.wf = true := by decide
theorem test_config_zero_width : { small with width := 0, frameBytes := 0 }.wf = false := by decide
theorem test_config_zero_height : { small with height := 0, frameBytes := 0 }.wf = false := by decide
theorem test_config_not_multiple_of_8 : { small with width := 3, height := 3, frameBytes := 1, cntBits := 1 }.wf = false := by decide
theorem test_config_wrong_frameBytes : { small with frameBytes := 5 }.wf = false := by decide
theorem test_config_wrong_cntBits : { small with cntBits := 2 }.wf = false := by decide
theorem test_instr_terminator_is_no_char : ¬ Instr.wf small (.tChar 0x0A) ∧ Instr.wf small (.tChar 0x0D) := by decide
theorem test_statement_text_beyond_byte : (Statement.bytes (.text [Char.ofNat 0x20AC])).wf small = false := by decide
theorem test_statement_line_beyond_byte : (Statement.bytes (.line [Char.ofNat 0x20AC])).wf small = false := by decide
theorem test_statement_frame_length : (Statement.bytes (.frame [1, 2, 3])).wf small = false := by decide
theorem test_statement_chunk : (Statement.chunk [.byte 1, .frame [1, 2, 3]]).wf small = false := by decide
theorem test_statement_legal : (Statement.chunk [.marker, .frame [1, 2, 3, 4]]).wf small = true := by decide
theorem test_decoder_text_with_remaining : DecoderState.wf small ⟨.textMode, 1, [], []⟩ = false := by decide
theorem test_decoder_text_with_frame : DecoderState.wf small ⟨.textMode, 0, [], [0]⟩ = false := by decide
theorem test_decoder_frame_without_remaining : DecoderState.wf small (frame 0 [1, 2, 3, 4]) = false := by decide
theorem test_decoder_frame_with_line : DecoderState.wf small ⟨.awaitingImageBytes, 4, [0x61], []⟩ = false := by decide
theorem test_decoder_frame_length : DecoderState.wf small (frame 3 []) = false := by decide
theorem test_decoder_terminator_in_line : DecoderState.wf small (text [0x61, 0x0A]) = false := by decide
theorem test_decoder_line_beyond_cap : DecoderState.wf capped (text [0x61, 0x62, 0x63]) = false := by decide

/-! ### Decoding: words written out from 30_encoding.md R76, `req ‖ mode ‖ eos ‖ data` -/

theorem test_decode_tLf : decodeTableWord 16 0b00_0_0_00001010 = some .tLf := by decide
theorem test_decode_tChar : decodeTableWord 16 0b00_0_0_01101000 = some (.tChar 0x68) := by decide
theorem test_decode_tEos : decodeTableWord 16 0b00_0_1_00000000 = some .tEos := by decide
theorem test_decode_tEos_ignores_data : decodeTableWord 16 0b00_0_1_00001010 = some .tEos := by decide
theorem test_decode_aData : decodeTableWord 16 0b00_1_0_00001010 = some (.aData 0x0A) := by decide
theorem test_decode_aEos : decodeTableWord 16 0b00_1_1_11111111 = some .aEos := by decide
theorem test_decode_reset : decodeTableWord 16 0b01_1_1_00001010 = some .reset := by decide
theorem test_decode_unpack : decodeTableWord 16 0b10_0_0_00000000 = some (.unpack [] 0 0) := by decide
theorem test_decode_disconnect : decodeTableWord 16 0b11_0_1_10000000 = some .disconnect := by decide
theorem test_decode_thirteen_bits : decodeTableWord 16 0x1000 = none := by decide
theorem test_decodeBytes_wide : decodeBytes small [0x0A, 0x10] noOperands = .error .widerThanTwelveBits := by rfl
theorem test_decodeBytes_short : decodeBytes small [0x0A] noOperands = .error .notTwoBytes := by rfl

/-- VD4's symbol as a delivered word: the next step runs it. -/
theorem test_withFetchWord : outcome (step (State.reset.withFetchWord 16 0x068)) = some (some (text [0x68]), []) := by decide

/-! ### Operations -/

/-- 40_decoder_symbols.md R91, the example. -/
theorem test_tChar_example : outcome (exec (.tChar 0x65) (machine small (text [0x68]))) = some (some (text [0x68, 0x65]), []) := by decide

/-- VD2. -/
theorem test_tChar_carriage_return : outcome (exec (.tChar 0x0D) (machine small (text [0x61]))) = some (some (text [0x61, 0x0D]), []) := by decide

/-- VD4. -/
theorem test_tLf_hello : outcome (exec .tLf (machine small (text [0x68, 0x65, 0x6C, 0x6C, 0x6F]))) =
    some (some (text []), [.logLine [0x68, 0x65, 0x6C, 0x6C, 0x6F]]) := by decide

/-- VD14: a marker line that ends in CR, in both readings. -/
theorem test_tLf_marker_cr :
    outcome (exec .tLf (machine small (text (imgStart ++ [0x0D])))) = some (some (frame 4 []), []) ∧
    outcome (exec .tLf (machine exact (text (imgStart ++ [0x0D])))) =
      some (some (text []), [.logLine [0x49, 0x4D, 0x47, 0x5F, 0x53, 0x54, 0x41, 0x52, 0x54, 0x0D]]) := by decide

/-- VD20. -/
theorem test_tEos_partial_line : outcome (exec .tEos (machine small (text [0x70, 0x61, 0x72]))) =
    some (some (text [0x70, 0x61, 0x72]), []) := by decide

/-- VD22. -/
theorem test_aData_terminator_is_payload : outcome (exec (.aData 0x0A) (machine small (frame 4 []))) =
    some (some (frame 3 [0x0A]), []) := by decide

/-- VD24. -/
theorem test_aData_completes : outcome (exec (.aData 0x00) (machine small (frame 1 [0x0A, 0x49, 0xFF]))) =
    some (some (text []), [.imageFrame [0x0A, 0x49, 0xFF, 0x00] 16 2]) := by rfl

/-- VD26. -/
theorem test_aEos_largest_report : outcome (exec .aEos (machine small (frame 1 [0xAA, 0xBB, 0xCC]))) =
    some (some (text []), [.decodeError (.truncatedFrame 3)]) := by decide

/-- VL2. -/
theorem test_reset_mid_frame : outcome (exec .reset (machine small (frame 2 [0xAA, 0xBB]))) = some (some (text []), []) := by decide

/-- VL4, its first operation: 42_lifecycle_and_pipeline.md R136. -/
theorem test_disconnect_mid_frame : outcome (exec .disconnect (machine small (frame 2 [0xAA, 0xBB]))) = some (none, []) := by decide

/-- VU1. -/
theorem test_unpack_source : unpack [0x7F] 8 1 = .grid ⟨8, 1, [pixels [0, 1, 1, 1, 1, 1, 1, 1]]⟩ := by rfl

/-- VU11: a width that is not a multiple of 8. -/
theorem test_unpack_width_12 : unpack [0xA5, 0x3C, 0x0F] 12 2 =
    .grid ⟨12, 2, [pixels [1, 0, 1, 0, 0, 1, 0, 1, 0, 0, 1, 1], pixels [0, 0, 1, 1, 1, 1, 1, 1, 0, 0, 0, 0]]⟩ := by rfl

/-- VU7. -/
theorem test_pack : pack ⟨16, 2, [pixels [0, 1, 0, 1, 0, 1, 0, 1, 1, 1, 1, 1, 0, 0, 0, 0],
    pixels [1, 1, 1, 1, 1, 1, 1, 1, 0, 0, 0, 0, 0, 0, 0, 1]]⟩ = [0x55, 0xF0, 0xFF, 0x01] := by decide

/-- VE4 to VE14, the boundary characters of the table. -/
theorem test_utf8_valid : utf8Valid [] ∧ utf8Valid [0xC3, 0xA9] ∧ utf8Valid [0xC2, 0x80] ∧ utf8Valid [0xE0, 0xA0, 0x80] ∧
    utf8Valid [0xED, 0x9F, 0xBF] ∧ utf8Valid [0xEE, 0x80, 0x80] ∧ utf8Valid [0xF0, 0x90, 0x80, 0x80] ∧
    utf8Valid [0xF4, 0x8F, 0xBF, 0xBF] := by decide

/-- VE15 to VE34, a choice. -/
theorem test_utf8_invalid : ¬ utf8Valid [0x80] ∧ ¬ utf8Valid [0xC1, 0xBF] ∧ ¬ utf8Valid [0xC2, 0x41] ∧
    ¬ utf8Valid [0xE0, 0x9F, 0xBF] ∧ ¬ utf8Valid [0xED, 0xA0, 0x80] ∧ ¬ utf8Valid [0xF0, 0x8F, 0xBF, 0xBF] ∧
    ¬ utf8Valid [0xF4, 0x90, 0x80, 0x80] ∧ ¬ utf8Valid [0xC3, 0xA9, 0xC3] := by decide

/-- VE13, VE4, VE7. -/
theorem test_codePoints : codePoints [0xF0, 0x9F, 0x98, 0x80, 0xC3, 0xA9, 0xE2, 0x82, 0xAC] = some [128512, 233, 8364] := by decide

/-- P1's stimulus (95_test_vectors.md part 3) is its seventeen symbols after `RESET`. -/
theorem test_expand_P1 : expandStimulus tiny [.reset, .bytes (.line "hello".toList), .bytes .marker, .bytes (.byte 0x7F)] =
    .reset :: [(0x68 : Byte), 0x65, 0x6C, 0x6C, 0x6F, 0x0A, 0x49, 0x4D, 0x47, 0x5F, 0x53, 0x54, 0x41, 0x52, 0x54, 0x0A, 0x7F].map
      fun b => .symbol (.byte b) := by decide

/-! ### Witnesses: for each statement with hypotheses, a state and operands that meet them -/

theorem ready_text : Ready .textMode (machine small (text [0x68])) (text [0x68]) := ⟨by decide, rfl, by decide, rfl⟩
theorem ready_text_empty : Ready .textMode (machine small (text [])) (text []) := ⟨by decide, rfl, by decide, rfl⟩
theorem ready_text_invalid : Ready .textMode (machine small (text [0xFF, 0xFE])) (text [0xFF, 0xFE]) := ⟨by decide, rfl, by decide, rfl⟩
theorem ready_text_marker : Ready .textMode (machine small (text imgStart)) (text imgStart) := ⟨by decide, rfl, by decide, rfl⟩
theorem ready_text_capped : Ready .textMode (machine capped (text [0x61])) (text [0x61]) := ⟨by decide, rfl, by decide, rfl⟩
theorem ready_frame_two : Ready .awaitingImageBytes (machine small (frame 2 [0xAA, 0xBB])) (frame 2 [0xAA, 0xBB]) :=
  ⟨by decide, rfl, by decide, rfl⟩
theorem ready_frame_one : Ready .awaitingImageBytes (machine small (frame 1 [0xAA, 0xBB, 0xCC])) (frame 1 [0xAA, 0xBB, 0xCC]) :=
  ⟨by decide, rfl, by decide, rfl⟩
theorem ready_frame_start : Ready .awaitingImageBytes (machine small (frame 4 [])) (frame 4 []) := ⟨by decide, rfl, by decide, rfl⟩

/-- The byte that fills a finite line buffer is still accepted. -/
theorem witness_TCharAppendsByteToLine :
    Ready .textMode (machine capped (text [0x61])) (text [0x61]) ∧ (0x62 : Byte) ≠ capped.lineTerminator ∧
      lineFits capped ((text [0x61]).linebuf.length + 1) = true := ⟨ready_text_capped, by decide, by decide⟩

theorem witness_TCharStoresOnlyAtLineEnd :
    exec (.tChar 0x65) (machine small (text [0x68])) = .next (machine small (text [0x68, 0x65])) := by rfl

/-- One state for each outcome: invalid, marker, and the empty line. -/
theorem witness_TLfTestsInOrderAndClearsLine :
    (Ready .textMode (machine small (text [0xFF, 0xFE])) (text [0xFF, 0xFE]) ∧ utf8Valid [0xFF, 0xFE] = false) ∧
    (Ready .textMode (machine small (text imgStart)) (text imgStart) ∧ utf8Valid imgStart = true ∧ isMarker small imgStart = true) ∧
    (Ready .textMode (machine small (text [])) (text []) ∧ utf8Valid [] = true ∧ isMarker small [] = false) :=
  ⟨⟨ready_text_invalid, by decide⟩, ⟨ready_text_marker, by decide, by decide⟩, ready_text_empty, by decide, by decide⟩

theorem witness_TLfReportsInvalidSegment :
    Ready .textMode (machine small (text [0xFF, 0xFE])) (text [0xFF, 0xFE]) ∧ utf8Valid [0xFF, 0xFE] = false :=
  ⟨ready_text_invalid, by decide⟩

theorem witness_TLfMarkerStartsFrame :
    Ready .textMode (machine small (text imgStart)) (text imgStart) ∧ utf8Valid imgStart = true ∧ isMarker small imgStart = true :=
  ⟨ready_text_marker, by decide, by decide⟩

theorem witness_TLfEmitsLogLine :
    Ready .textMode (machine small (text [])) (text []) ∧ utf8Valid [] = true ∧ isMarker small [] = false :=
  ⟨ready_text_empty, by decide, by decide⟩

theorem witness_TEosHoldsState : Ready .textMode (machine small (text [0x68])) (text [0x68]) := ready_text

/-- Both clauses, at the boundary counts 2 and 1. -/
theorem witness_ADataCountsAndCompletesFrame :
    (Ready .awaitingImageBytes (machine small (frame 2 [0xAA, 0xBB])) (frame 2 [0xAA, 0xBB]) ∧ 2 ≤ (frame 2 [0xAA, 0xBB]).remaining) ∧
    (Ready .awaitingImageBytes (machine small (frame 1 [0xAA, 0xBB, 0xCC])) (frame 1 [0xAA, 0xBB, 0xCC]) ∧
      (frame 1 [0xAA, 0xBB, 0xCC]).remaining = 1) :=
  ⟨⟨ready_frame_two, by decide⟩, ready_frame_one, rfl⟩

theorem witness_ADataStoresOnlyAtFrameEnd :
    (machine small (frame 2 [0xAA, 0xBB])).dec = some (frame 2 [0xAA, 0xBB]) ∧ 2 ≤ (frame 2 [0xAA, 0xBB]).remaining ∧
      exec (.aData 0xCC) (machine small (frame 2 [0xAA, 0xBB])) = .next (machine small (frame 1 [0xAA, 0xBB, 0xCC])) :=
  ⟨rfl, by decide, by rfl⟩

/-- No payload byte yet, and all but one. -/
theorem witness_AEosReportsTruncatedFrame :
    Ready .awaitingImageBytes (machine small (frame 4 [])) (frame 4 []) ∧
    Ready .awaitingImageBytes (machine small (frame 1 [0xAA, 0xBB, 0xCC])) (frame 1 [0xAA, 0xBB, 0xCC]) :=
  ⟨ready_frame_start, ready_frame_one⟩

/-- A state in a frame, an absent one, and one that breaks 10_state.md R25. -/
theorem witness_ResetGivesResetValues :
    (machine small (frame 2 [0xAA, 0xBB])).cfg.wf = true ∧ (machine small (text [])).dropDec.cfg.wf = true ∧
      (machine small (frame 0 [])).cfg.wf = true := by decide

theorem witness_DisconnectDiscardsState : (machine small (frame 2 [0xAA, 0xBB])).cfg.wf = true := by decide

/-- VU8 and VU12: a payload one byte too long, and the empty grid. -/
theorem witness_UnpackShapeErrorExactlyOnMismatch :
    (machine small (text [])).cfg.wf = true ∧ 8 * ([0x7F, 0x00] : List Byte).length ≠ 8 * 1 ∧
      8 * ([] : List Byte).length = 0 * 5 := by decide

/-- VU10: the last pixel of a grid whose width is not a multiple of 8. -/
theorem witness_UnpackPixelIsIndexedBit :
    unpack [0x5F] 4 2 = .grid ⟨4, 2, [pixels [0, 1, 0, 1], pixels [0, 1, 0, 1]]⟩ ∧ 3 < 4 ∧ 1 < 2 := ⟨by rfl, by decide, by decide⟩

/-- VU2, one payload for each clause. -/
theorem witness_UnpackPolarityIsInverted :
    (unpack [0x00] 8 1 = .grid ⟨8, 1, [pixels [0, 0, 0, 0, 0, 0, 0, 0]]⟩ ∧ ∀ b ∈ ([0x00] : List Byte), b = 0x00) ∧
    (unpack [0xFF] 8 1 = .grid ⟨8, 1, [pixels [1, 1, 1, 1, 1, 1, 1, 1]]⟩ ∧ ∀ b ∈ ([0xFF] : List Byte), b = 0xFF) :=
  ⟨⟨by rfl, by decide⟩, by rfl, by decide⟩

/-- VU7: the last pixel of the last byte of the last row. -/
theorem witness_UnpackScattersRowBytes :
    unpack [0x55, 0xF0, 0xFF, 0x01] (8 * 2) 2 = .grid ⟨16, 2, [pixels [0, 1, 0, 1, 0, 1, 0, 1, 1, 1, 1, 1, 0, 0, 0, 0],
      pixels [1, 1, 1, 1, 1, 1, 1, 1, 0, 0, 0, 0, 0, 0, 0, 1]]⟩ ∧ 1 < 2 ∧ 7 < 8 := ⟨by rfl, by decide, by decide⟩

theorem witness_PackPlacesEveryPixel :
    gridWf ⟨8, 2, [pixels [0, 1, 0, 1, 0, 1, 0, 1], pixels [1, 1, 1, 1, 0, 0, 0, 0]]⟩ ∧ 8 % 8 = 0 ∧ 7 < 8 ∧ 1 < 2 := by decide

theorem witness_UnpackAfterPackIsIdentity :
    gridWf ⟨8, 2, [pixels [0, 1, 0, 1, 0, 1, 0, 1], pixels [1, 1, 1, 1, 0, 0, 0, 0]]⟩ ∧ 8 % 8 = 0 := by decide

theorem witness_PackAfterUnpackIsIdentity :
    8 % 8 = 0 ∧ unpack [0x7F] 8 1 = .grid ⟨8, 1, [pixels [0, 1, 1, 1, 1, 1, 1, 1]]⟩ := ⟨by decide, by rfl⟩

/-- A segment that is a concatenation of characters, for the direction from right to left. -/
theorem witness_Utf8ValidIsTableConcatenation : IsUtf8Char [0xC3, 0xA9] ∧ utf8Valid [0x61, 0xC3, 0xA9] = true :=
  ⟨⟨[(0xC2, 0xDF), (0x80, 0xBF)], by decide, by simp [inRange]⟩, by decide⟩

theorem witness_CodePointsAreOneToOne :
    utf8Valid [0xC3, 0xA9] = true ∧ codePoints [0xC3, 0xA9] = some [233] := by decide

theorem witness_MarkerReadingsDifferOnLongerLines : small.markerMatch = .prefixMatch ∧ exact.markerMatch = .exactMatch ∧
    isMarker small (imgStart ++ [0x0D]) = true ∧ isMarker exact (imgStart ++ [0x0D]) = false := by decide

theorem witness_ModeAndSymbolSelectOperation : (0x0D : Byte) ≠ small.lineTerminator := by decide

theorem witness_DecodeOfEncodeIsIdentity : Instr.wf small (.tChar 0x0D) := by decide

/-- An `EOS` word whose ignored data is the terminator. -/
theorem witness_SymbolWordCarriesSymbol : 2 ^ 8 ≤ (0x10A : SymbolWord).toNat := by decide

theorem witness_StepRunsDecodedInstruction :
    ((machine small (frame 2 [0xAA, 0xBB])).setPending [.symbol (.byte 0x0A), .reset]).pending = .symbol (.byte 0x0A) :: [.reset] ∧
    packetFor (.symbol (.byte 0x0A)) (some (frame 2 [0xAA, 0xBB])) = some ⟨0x20A, noOperands⟩ ∧
    decode small ⟨0x20A, noOperands⟩ = .aData 0x0A := by decide

theorem witness_IdleStepHoldsState : State.reset.pending = [] := rfl

theorem witness_DeliveredWordRunsNext : State.reset.cfg = Config.thisHardware ∧ decodeTableWord 16 0x20A = some (.aData 0x0A) := by
  decide

theorem witness_EverySymbolIsAccepted :
    (machine small (text [0x68])).cfg.wf = true ∧ (machine small (text [0x68])).cfg.lineBufCap = none ∧
      (machine small (text [0x68])).dec = some (text [0x68]) ∧ (text [0x68]).wf small = true := by decide

theorem witness_SymbolsFollowTransitionTable :
    (machine capped (text [0x61])).cfg.wf = true ∧ (machine capped (text [0x61])).dec = some (text [0x61]) ∧
      (text [0x61]).wf capped = true ∧ lineFits capped ((text [0x61]).linebuf.length + 1) = true := by decide

/-- The largest report's `EOS` emits. -/
theorem witness_OnlyThreeSymbolsEmit :
    ∃ s', (machine small (frame 1 [0xAA, 0xBB, 0xCC])).dec = some (frame 1 [0xAA, 0xBB, 0xCC]) ∧
      perform (.symbol .eos) (machine small (frame 1 [0xAA, 0xBB, 0xCC])) = .next s' ∧
      s'.events ≠ (machine small (frame 1 [0xAA, 0xBB, 0xCC])).events :=
  ⟨_, rfl, rfl, by decide⟩

/-- One chunk that falls one byte short of the frame, and one that ends it. -/
theorem witness_PayloadBytesAreCountedNotRead :
    Ready .awaitingImageBytes (machine small (frame 2 [0xAA, 0xBB])) (frame 2 [0xAA, 0xBB]) ∧
      ([0x0A] : List Byte).length < (frame 2 [0xAA, 0xBB]).remaining ∧
      ([0x0A, 0x49] : List Byte).length = (frame 2 [0xAA, 0xBB]).remaining := ⟨ready_frame_two, by decide, by decide⟩

/-- A line, an invalid line, and a frame whose payload is text. -/
theorem witness_CompleteStreamGivesOneEventPerUnit :
    small.wf = true ∧ (machine small (text [])).dec = some DecoderState.reset ∧
      ∀ u ∈ [WireUnit.line [0x68], .line [0xFF], .frame imgStart [0x0A, 0x49, 0xFF, 0x00]], unitWf small u := by
  refine ⟨by decide, rfl, fun u hu => ?_⟩
  simp only [List.mem_cons, List.not_mem_nil, or_false] at hu
  rcases hu with rfl | rfl | rfl
  · exact ⟨by decide, by decide, by decide⟩
  · exact ⟨by decide, by decide, by decide⟩
  · exact ⟨by decide, by decide, by decide, by decide, by decide⟩

/-- All payload bytes but one. -/
theorem witness_ShortFrameGivesOneTruncatedError :
    small.wf = true ∧ (machine small (text [])).dec = some DecoderState.reset ∧ small.lineTerminator ∉ imgStart ∧
      lineFits small imgStart.length = true ∧ utf8Valid imgStart = true ∧ isMarker small imgStart = true ∧
      ([0xAA, 0xBB, 0xCC] : List Byte).length < small.frameBytes := by decide

/-- A state with history, in a frame, and a step from it. -/
theorem witness_StepKeepsMachineInvariant :
    ∃ s s', MachineInv s ∧ s.events ≠ [] ∧ step s = .next s' :=
  ⟨⟨small, some (frame 4 []), [.symbol .eos], [.logLine [0x68]], [.text (.text [0x68])], []⟩, _,
    ⟨by decide, fun d hd => by cases hd; decide, fun ev hev => by cases List.mem_singleton.1 hev; exact ⟨by decide, by decide, by decide⟩,
      rfl, nofun⟩, by decide, rfl⟩

theorem witness_CounterFitsItsWidth : small.wf = true ∧ (frame 4 []).wf small = true := by decide

/-- Every operation gives a next state somewhere: the frame's clauses, in both modes. -/
theorem witness_OperationsChangeOnlyTheirFields :
    (∃ s', exec .tLf (machine small (text [0x68])) = .next s') ∧ (∃ s', exec (.tChar 0x65) (machine small (text [0x68])) = .next s') ∧
      (∃ s', exec .tEos (machine small (text [0x68])) = .next s') ∧ (∃ s', exec (.aData 0x0A) (machine small (frame 4 [])) = .next s') ∧
      (∃ s', exec .aEos (machine small (frame 4 [])) = .next s') ∧ (∃ s', exec .reset (machine small (frame 4 [])) = .next s') ∧
      (∃ s', exec (.unpack [0x7F] 8 1) (machine small (text [])) = .next s') ∧
      (∃ s', exec .disconnect (machine small (frame 4 [])) = .next s') :=
  ⟨⟨_, rfl⟩, ⟨_, rfl⟩, ⟨_, rfl⟩, ⟨_, rfl⟩, ⟨_, rfl⟩, ⟨_, rfl⟩, ⟨_, rfl⟩, ⟨_, rfl⟩⟩

theorem witness_ErrorsLeaveDecoderUsable :
    ∃ s', exec .tLf (machine capped (text [0xFF, 0xFE])) = .next s' ∧
      s'.events = (machine capped (text [0xFF, 0xFE])).events ++ [.decodeError (.invalidEncoding [0xFF, 0xFE])] ∧
      lineFits capped 1 = true := ⟨_, rfl, rfl, by decide⟩

/-- One operation for each kind of event. -/
theorem witness_EveryEventReachesItsSink :
    (∃ s', exec .tLf (machine small (text [0x68])) = .next s' ∧ s'.events = [] ++ [.logLine [0x68]]) ∧
    (∃ s', exec .aEos (machine small (frame 4 [])) = .next s' ∧ s'.events = [] ++ [.decodeError (.truncatedFrame 0)]) ∧
    (∃ s', exec (.aData 0x7F) (machine tiny (frame 1 [])) = .next s' ∧ s'.events = [] ++ [.imageFrame [0x7F] 8 1]) :=
  ⟨⟨_, rfl, rfl⟩, ⟨_, rfl, rfl⟩, ⟨_, rfl, rfl⟩⟩

/-- One refusal for each reason. -/
theorem witness_RefusalsHaveStatedCauses :
    exec .reset (machine { small with width := 0 } (text [])) = .refused .badConfiguration ∧
    exec .tEos (machine small (text [])).dropDec = .refused .noDecoderState ∧
    exec .tEos (machine small ⟨.textMode, 0, [], [0]⟩) = .refused .illFormedState ∧
    exec .tEos (machine small (frame 4 [])) = .refused .notSelected ∧
    exec (.tChar 0x63) (machine capped (text [0x61, 0x62])) = .refused .lineBufferOverflow := ⟨rfl, rfl, rfl, rfl, rfl⟩

/-- VL5. -/
theorem witness_SymbolWithoutStateIsRefused :
    (machine small (text [])).dropDec.cfg.wf = true ∧ (machine small (text [])).dropDec.dec = none := by decide

/-- One state for each clause. -/
theorem witness_IllFormedMachineIsRefused :
    ¬ (machine { small with width := 0 } (text [])).cfg.wf ∧
    (small.wf = true ∧ (machine small (frame 0 [])).dec = some (frame 0 []) ∧ ¬ (frame 0 []).wf small ∧ isStreamOp .aEos = true) := by
  decide

theorem witness_LineBeyondCapacityIsRefused :
    Ready .textMode (machine capped (text [0x61, 0x62])) (text [0x61, 0x62]) ∧ (0x63 : Byte) ≠ capped.lineTerminator ∧
      capped.lineBufCap = some 2 ∧ (text [0x61, 0x62]).linebuf.length = 2 :=
  ⟨⟨by decide, rfl, by decide, rfl⟩, by decide, rfl, rfl⟩

end Sys2Proof.Tests
end

section
/-! A run commutes with the history it starts behind (00_scope.md R10, 10_state.md R31). `afterHistory s t` is `t` with the
queue of `s` and behind the outputs of `s`; every operation reads only the configuration and the decoder's state and only
appends to the outputs, so it acts on `afterHistory s t` as it acts on `t`. -/

namespace Sys2Proof.Machine

variable (s t : State)

/-! ### Mapping the next state -/

@[simp] theorem mapNext_next (f : State → State) : mapNext f (.next s) = .next (f s) := rfl
@[simp] theorem mapNext_fault (f : State → State) (why : Fault) : mapNext f (.fault why) = .fault why := rfl
@[simp] theorem mapNext_refused (f : State → State) (why : Refusal) : mapNext f (.refused why) = .refused why := rfl

@[simp] theorem mapNext_ite (f : State → State) (p : Prop) [Decidable p] (r r' : Result) :
    mapNext f (if p then r else r') = if p then mapNext f r else mapNext f r' := apply_ite _ _ _ _

theorem mapNext_andThen (f : State → State) (r : Result) (g : State → Result) :
    mapNext f (andThen r g) = andThen r fun s => mapNext f (g s) := andThen_assoc r g _

theorem andThen_mapNext (f : State → State) (r : Result) (g : State → Result) :
    andThen (mapNext f r) g = andThen r fun s => g (f s) := andThen_assoc r _ g

/-! ### A state behind a history -/

@[simp] theorem afterHistory_cfg : (afterHistory s t).cfg = t.cfg := rfl
@[simp] theorem afterHistory_dec : (afterHistory s t).dec = t.dec := rfl

@[simp] theorem afterHistory_setDec (d : DecoderState) :
    (afterHistory s t).setDec d = afterHistory s (t.setDec d) := rfl

@[simp] theorem afterHistory_dropDec : (afterHistory s t).dropDec = afterHistory s t.dropDec := rfl

@[simp] theorem afterHistory_record (ev : DecodedEvent) (item : SinkItem) :
    (afterHistory s t).record ev item = afterHistory s (t.record ev item) := by
  simp only [State.record, afterHistory, List.append_assoc]

@[simp] theorem afterHistory_addResult (r : UnpackResult) :
    (afterHistory s t).addResult r = afterHistory s (t.addResult r) := by
  simp only [State.addResult, afterHistory, List.append_assoc]

theorem afterHistory_bare : afterHistory s (bare s) = s := by
  simp only [afterHistory, bare, List.append_nil]

/-! ### The shared operations behind a history -/

@[simp] theorem emit_afterHistory (ev : DecodedEvent) :
    emit ev (afterHistory s t) = mapNext (afterHistory s) (emit ev t) := by
  unfold emit
  cases sinkItemOf ev with
  | none => rfl
  | some item => exact congrArg Host.Outcome.next (afterHistory_record s t ev item)

theorem configured_afterHistory (act : Result) :
    configured (afterHistory s t) (mapNext (afterHistory s) act) = mapNext (afterHistory s) (configured t act) := by
  by_cases hc : t.cfg.wf
  · rw [configured_of_wf hc, configured_of_wf (s := afterHistory s t) hc]
  · rw [configured_of_not_wf hc, configured_of_not_wf (s := afterHistory s t) hc, mapNext_refused]

/-- The checks of a stream operation read the configuration and the decoder's state alone. -/
theorem onStream_afterHistory (m : Mode) {act act' : DecoderState → Result}
    (hact : ∀ d, act' d = mapNext (afterHistory s) (act d)) :
    onStream m (afterHistory s t) act' = mapNext (afterHistory s) (onStream m t act) := by
  unfold onStream
  rw [← configured_afterHistory, afterHistory_dec, afterHistory_cfg]
  cases t.dec with
  | none => rfl
  | some d => simp only [hact, mapNext_ite, mapNext_refused]

/-! ### The operations behind a history -/

theorem execTLf_afterHistory : execTLf (afterHistory s t) = mapNext (afterHistory s) (execTLf t) :=
  onStream_afterHistory s t .textMode fun d => by
    simp only [afterHistory_cfg, afterHistory_setDec, afterHistory_record, takeDecodeError_eq, emit_logLine,
      mapNext_ite, mapNext_next]

theorem execTChar_afterHistory (b : Byte) :
    execTChar b (afterHistory s t) = mapNext (afterHistory s) (execTChar b t) :=
  onStream_afterHistory s t .textMode fun d => by
    simp only [mapNext_ite, mapNext_next, mapNext_refused]
    rfl

theorem execTEos_afterHistory : execTEos (afterHistory s t) = mapNext (afterHistory s) (execTEos t) :=
  onStream_afterHistory s t .textMode fun _ => rfl

theorem execAData_afterHistory (b : Byte) :
    execAData b (afterHistory s t) = mapNext (afterHistory s) (execAData b t) :=
  onStream_afterHistory s t .awaitingImageBytes fun d => by
    simp only [afterHistory_cfg, afterHistory_setDec, emit_afterHistory, mapNext_ite, mapNext_next]

theorem execAEos_afterHistory : execAEos (afterHistory s t) = mapNext (afterHistory s) (execAEos t) :=
  onStream_afterHistory s t .awaitingImageBytes fun d => by
    simp only [takeDecodeError_eq, afterHistory_cfg, afterHistory_setDec, afterHistory_record, mapNext_next]

theorem execReset_afterHistory : execReset (afterHistory s t) = mapNext (afterHistory s) (execReset t) :=
  configured_afterHistory s t (.next (t.setDec DecoderState.reset))

theorem execDisconnect_afterHistory :
    execDisconnect (afterHistory s t) = mapNext (afterHistory s) (execDisconnect t) :=
  configured_afterHistory s t (.next t.dropDec)

theorem execUnpack_afterHistory (payload : List Byte) (width height : Nat) :
    execUnpack payload width height (afterHistory s t) =
      mapNext (afterHistory s) (execUnpack payload width height t) := by
  unfold execUnpack
  rw [afterHistory_addResult]
  exact configured_afterHistory s t (.next (t.addResult (unpack payload width height)))

theorem exec_afterHistory (i : Instr) :
    exec i (afterHistory s t) = mapNext (afterHistory s) (exec i t) := by
  cases i with
  | tLf => exact execTLf_afterHistory s t
  | tChar b => exact execTChar_afterHistory s t b
  | tEos => exact execTEos_afterHistory s t
  | aData b => exact execAData_afterHistory s t b
  | aEos => exact execAEos_afterHistory s t
  | reset => exact execReset_afterHistory s t
  | unpack payload width height => exact execUnpack_afterHistory s t payload width height
  | disconnect => exact execDisconnect_afterHistory s t

/-! ### Whole runs behind a history -/

theorem perform_afterHistory (input : Input) :
    perform input (afterHistory s t) = mapNext (afterHistory s) (perform input t) := by
  unfold perform
  rw [afterHistory_dec, afterHistory_cfg]
  cases packetFor input t.dec with
  | none => rfl
  | some p => exact exec_afterHistory s t (decode t.cfg p)

theorem performAll_afterHistory (inputs : List Input) :
    performAll inputs (afterHistory s t) = mapNext (afterHistory s) (performAll inputs t) := by
  induction inputs generalizing t with
  | nil => rfl
  | cons input rest ih => simp only [performAll, perform_afterHistory, andThen_mapNext, ih, mapNext_andThen]

/-- Settles O40: the run from `s` is the run from `bare s` put behind the history of `s`. -/
theorem historyDoesNotInfluenceRun : Obligations.HistoryDoesNotInfluenceRun := fun inputs s =>
  calc performAll inputs s
    _ = performAll inputs (afterHistory s (bare s)) := by rw [afterHistory_bare]
    _ = mapNext (afterHistory s) (performAll inputs (bare s)) := performAll_afterHistory s (bare s) inputs

end Sys2Proof.Machine
end

section
/-! Decoding (30_encoding.md R60, R62, R76): a symbol survives its word, each operation word selects its operation, and the
decoder selects the first matching row of the opcode table. -/

namespace Sys2Proof

/-! ### Symbols and requests through their words -/

@[simp] theorem symbolOfWord_toWord (sym : Symbol) : symbolOfWord sym.toWord = sym := by
  cases sym with
  | byte b =>
    have hb := b.isLt
    have heos : bitField b.toNat 8 8 = 0 := by simp only [bitField]; omega
    have hdata : bitField b.toNat 7 0 = b.toNat := by simp only [bitField]; omega
    rw [symbolOfWord, Symbol.toWord_toNat_byte, if_pos heos, hdata, BitVec.ofNat_toNat, BitVec.setWidth_eq]
  | eos => rfl

variable (c : Config) (ops : UnpackOperands)

/-- A stream symbol's word selects the operation of its mode (30_encoding.md R62). -/
theorem decode_streamWord_eq_selectOp (m : Mode) (sym : Symbol) :
    decode c ⟨streamWord m sym, ops⟩ = selectOp c m sym := by
  rw [Machine.decode_streamWord, symbolOfWord_toWord]

theorem decode_of_req_one {w : OpWord} (h : reqField w = 1) : decode c ⟨w, ops⟩ = .reset := by
  simp [decode, h]

theorem decode_of_req_two {w : OpWord} (h : reqField w = 2) :
    decode c ⟨w, ops⟩ = .unpack ops.payload ops.width ops.height := by
  simp [decode, h]

theorem decode_of_req_three {w : OpWord} (h : reqField w = 3) : decode c ⟨w, ops⟩ = .disconnect := by
  simp [decode, h]

theorem selectOp_terminator : selectOp c .textMode (.byte c.lineTerminator) = .tLf := if_pos rfl

theorem selectOp_of_ne_terminator {b : Byte} (hb : b ≠ c.lineTerminator) :
    selectOp c .textMode (.byte b) = .tChar b := if_neg hb

/-- Settles O28, by the operation: the word of each is a stream symbol's or a request's. -/
theorem decodeOfEncodeIsIdentity : Obligations.DecodeOfEncodeIsIdentity := fun c i hi => by
  cases i with
  | tLf => exact (decode_streamWord_eq_selectOp c _ _ _).trans (selectOp_terminator c)
  | tChar b =>
    have hb : b ≠ c.lineTerminator := fun h => hi (congrArg Instr.tChar h)
    exact (decode_streamWord_eq_selectOp c _ _ _).trans (selectOp_of_ne_terminator c hb)
  | tEos => exact decode_streamWord_eq_selectOp c _ .textMode .eos
  | aData b => exact decode_streamWord_eq_selectOp c _ .awaitingImageBytes (.byte b)
  | aEos => exact decode_streamWord_eq_selectOp c _ .awaitingImageBytes .eos
  | reset => exact decode_of_req_one c _ (requestWord_req (by decide))
  | unpack payload width height => exact decode_of_req_two c ⟨payload, width, height⟩ (requestWord_req (by decide))
  | disconnect => exact decode_of_req_three c _ (requestWord_req (by decide))

/-- Settles O26: the stream words by `selectOp`, the request words by their code. -/
theorem modeAndSymbolSelectOperation : Obligations.ModeAndSymbolSelectOperation := fun c ops b =>
  ⟨(decode_streamWord_eq_selectOp c ops _ _).trans (selectOp_terminator c),
    fun hb => (decode_streamWord_eq_selectOp c ops _ _).trans (selectOp_of_ne_terminator c hb),
    decode_streamWord_eq_selectOp c ops .textMode .eos,
    decode_streamWord_eq_selectOp c ops .awaitingImageBytes (.byte b),
    decode_streamWord_eq_selectOp c ops .awaitingImageBytes .eos,
    decode_of_req_one c ops (requestWord_req (by decide)),
    decode_of_req_two c ops (requestWord_req (by decide)),
    decode_of_req_three c ops (requestWord_req (by decide))⟩

/-- Settles O30: nine concrete words, evaluated. -/
theorem tableWordsDecode : Obligations.TableWordsDecode := by
  unfold Obligations.TableWordsDecode
  decide

/-! ### The rows of the table -/

/-- A mask of the bits `hi` to `lo` leaves that field, in its place. -/
theorem and_mask_eq_bitField (v hi lo : Nat) :
    v &&& (2 ^ (hi - lo + 1) - 1) * 2 ^ lo = bitField v hi lo * 2 ^ lo := by
  refine Nat.eq_of_testBit_eq fun i => ?_
  rw [bitField, Nat.testBit_and, Nat.testBit_mul_two_pow, Nat.testBit_mul_two_pow, Nat.testBit_two_pow_sub_one,
    Nat.testBit_mod_two_pow, Nat.testBit_div_two_pow]
  by_cases hle : lo ≤ i
  · simp [hle, Bool.and_comm]
  · simp [hle]

variable (w : OpWord)

/-- A row whose mask is the field `hi` to `lo` matches the words with the row's value in that field. -/
theorem matchesWord_iff_bitField {r : TableRow} (hi lo : Nat) (hmask : r.mask = (2 ^ (hi - lo + 1) - 1) * 2 ^ lo) :
    r.matchesWord w = true ↔ bitField w.toNat hi lo * 2 ^ lo = r.matchBits := by
  rw [Laws.EncodedInRow.matchesWord_iff, hmask, and_mask_eq_bitField]

theorem matchesWord_wordMask (name : String) (n : Nat) :
    TableRow.matchesWord ⟨name, n, 0xFFF⟩ w = true ↔ w.toNat = n := by
  have hw := w.isLt
  have hfield : bitField w.toNat 11 0 * 2 ^ 0 = w.toNat := by simp only [bitField]; omega
  exact (matchesWord_iff_bitField w 11 0 rfl).trans (by rw [hfield])

theorem matchesWord_streamMask (name : String) (n : Nat) :
    TableRow.matchesWord ⟨name, n, 0xF00⟩ w = true ↔ w.toNat / 256 * 256 = n := by
  have hw := w.isLt
  have hfield : bitField w.toNat 11 8 * 2 ^ 8 = w.toNat / 256 * 256 := by simp only [bitField]; omega
  exact (matchesWord_iff_bitField w 11 8 rfl).trans (by rw [hfield])

theorem matchesWord_requestMask (name : String) (n : Nat) :
    TableRow.matchesWord ⟨name, n, 0xC00⟩ w = true ↔ w.toNat / 1024 * 1024 = n := by
  have hw := w.isLt
  have hfield : bitField w.toNat 11 10 * 2 ^ 10 = w.toNat / 1024 * 1024 := by simp only [bitField]; omega
  exact (matchesWord_iff_bitField w 11 10 rfl).trans (by rw [hfield])

theorem find?_matchesWord_cons (r : TableRow) (rows : List TableRow) :
    (r :: rows).find? (fun r => r.matchesWord w) =
      if r.matchesWord w = true then some r else rows.find? fun r => r.matchesWord w := by
  rw [List.find?_cons]
  cases r.matchesWord w <;> rfl

/-- The table as a decision on the word's number. -/
theorem firstRow_mnemonic : (firstRow c w).map TableRow.mnemonic =
    if w.toNat = c.lineTerminator.toNat then some "T.LF"
    else if w.toNat / 256 * 256 = 0x000 then some "T.CHAR"
    else if w.toNat / 256 * 256 = 0x100 then some "T.EOS"
    else if w.toNat / 256 * 256 = 0x200 then some "A.DATA"
    else if w.toNat / 256 * 256 = 0x300 then some "A.EOS"
    else if w.toNat / 1024 * 1024 = 0x400 then some "RESET"
    else if w.toNat / 1024 * 1024 = 0x800 then some "UNPACK"
    else if w.toNat / 1024 * 1024 = 0xC00 then some "DISCONNECT"
    else none := by
  simp only [firstRow, opTable, find?_matchesWord_cons, List.find?_nil, matchesWord_wordMask, matchesWord_streamMask,
    matchesWord_requestMask, apply_ite (Option.map TableRow.mnemonic), Option.map_some, Option.map_none]

/-- A request's word matches no stream row. -/
theorem firstRow_mnemonic_of_request (h : 1024 ≤ w.toNat) : (firstRow c w).map TableRow.mnemonic =
    if w.toNat / 1024 * 1024 = 0x400 then some "RESET"
    else if w.toNat / 1024 * 1024 = 0x800 then some "UNPACK"
    else if w.toNat / 1024 * 1024 = 0xC00 then some "DISCONNECT"
    else none := by
  have hterm := c.lineTerminator.isLt
  rw [firstRow_mnemonic, if_neg (by omega), if_neg (by omega), if_neg (by omega), if_neg (by omega), if_neg (by omega)]

/-! ### The fields of any word -/

theorem reqField_eq : reqField w = w.toNat / 1024 := by
  have hw := w.isLt
  simp only [reqField, bitField]
  omega

/-- `OW[8]` chooses between `EOS`, whose data is ignored, and the byte `OW[7:0]` (30_encoding.md R60, R76). -/
theorem symbolOfWord_symbolField :
    symbolOfWord (symbolField w) = if w.toNat / 256 % 2 = 0 then .byte (BitVec.ofNat 8 w.toNat) else .eos := by
  have heos : bitField (symbolField w).toNat 8 8 = w.toNat / 256 % 2 := by
    simp only [bitField, symbolField, BitVec.toNat_ofNat]; omega
  have hdata : BitVec.ofNat 8 (bitField (symbolField w).toNat 7 0) = BitVec.ofNat 8 w.toNat := by
    apply BitVec.eq_of_toNat_eq
    simp only [bitField, symbolField, BitVec.toNat_ofNat]; omega
  rw [symbolOfWord, heos, hdata]

theorem modeOfBit_modeField {m : Mode} (h : w.toNat / 512 % 2 = m.toBit) : modeOfBit (modeField w) = m := by
  rw [show modeField w = m.toBit from h, modeOfBit_toBit]

theorem Mode.toBit_lt_two (m : Mode) : m.toBit < 2 := by cases m <;> decide

/-! ### What any word decodes to -/

theorem decode_of_stream_byte {m : Mode} (h : w.toNat / 256 = 2 * m.toBit) :
    decode c ⟨w, ops⟩ = selectOp c m (.byte (BitVec.ofNat 8 w.toNat)) := by
  have hm := m.toBit_lt_two
  have hreq : reqField w = 0 := by rw [reqField_eq]; omega
  rw [decode, if_pos hreq, modeOfBit_modeField w (by omega : _ = m.toBit), symbolOfWord_symbolField,
    if_pos (by omega : w.toNat / 256 % 2 = 0)]

theorem decode_of_stream_eos {m : Mode} (h : w.toNat / 256 = 2 * m.toBit + 1) :
    decode c ⟨w, ops⟩ = selectOp c m .eos := by
  have hm := m.toBit_lt_two
  have hreq : reqField w = 0 := by rw [reqField_eq]; omega
  rw [decode, if_pos hreq, modeOfBit_modeField w (by omega : _ = m.toBit), symbolOfWord_symbolField,
    if_neg (by omega : ¬ w.toNat / 256 % 2 = 0)]

/-- Settles O27: above the data bits the request, mode and `eos` bits name the row; a word of data bits alone is the
terminator's or not. -/
theorem decodeFollowsFirstMatchingRow : Obligations.DecodeFollowsFirstMatchingRow := by
  rintro c ⟨w, ops⟩
  change (firstRow c w).map TableRow.mnemonic = _
  have hw := w.isLt
  have hterm := c.lineTerminator.isLt
  obtain h | h | h | h | h | h | h : w.toNat / 256 = 0 ∨ w.toNat / 256 = 1 ∨ w.toNat / 256 = 2 ∨ w.toNat / 256 = 3 ∨
    w.toNat / 1024 = 1 ∨ w.toNat / 1024 = 2 ∨ w.toNat / 1024 = 3 := by omega
  · have hdata : BitVec.ofNat 8 w.toNat = c.lineTerminator ↔ w.toNat = c.lineTerminator.toNat := by
      rw [BitVec.toNat_eq, BitVec.toNat_ofNat, Nat.mod_eq_of_lt (by omega)]
    rw [firstRow_mnemonic, decode_of_stream_byte c ops w (m := .textMode) h, h]
    by_cases heq : w.toNat = c.lineTerminator.toNat
    · rw [if_pos heq, hdata.2 heq, selectOp_terminator]; rfl
    · rw [if_neg heq, selectOp_of_ne_terminator c (mt hdata.1 heq)]; rfl
  · rw [firstRow_mnemonic, if_neg (by omega), decode_of_stream_eos c ops w (m := .textMode) h, h]; rfl
  · rw [firstRow_mnemonic, if_neg (by omega), decode_of_stream_byte c ops w (m := .awaitingImageBytes) h, h]; rfl
  · rw [firstRow_mnemonic, if_neg (by omega), decode_of_stream_eos c ops w (m := .awaitingImageBytes) h, h]; rfl
  · rw [firstRow_mnemonic_of_request c w (by omega), decode_of_req_one c ops ((reqField_eq w).trans h), h]; rfl
  · rw [firstRow_mnemonic_of_request c w (by omega), decode_of_req_two c ops ((reqField_eq w).trans h), h]; rfl
  · rw [firstRow_mnemonic_of_request c w (by omega), decode_of_req_three c ops ((reqField_eq w).trans h), h]; rfl

end Sys2Proof
end

section
/-! From a delivered input or table word to the operation it runs (30_encoding.md R62, R76). -/

namespace Sys2Proof.Machine

variable {s : State}

/-! ### One input -/

theorem perform_of_packet {input : Input} {p : Packet} (h : packetFor input s.dec = some p) :
    perform input s = exec (decode s.cfg p) s := by
  simp only [perform, h]

/-- Settles O31: the step takes the input off the queue, which its packet does not depend on, and performs it. -/
theorem stepRunsDecodedInstruction : Obligations.StepRunsDecodedInstruction := by
  intro s input rest p i hpending hpacket hdecode
  calc step s
    _ = perform input (s.setPending rest) := step_of_pending hpending
    _ = exec (decode s.cfg p) (s.setPending rest) := perform_of_packet hpacket
    _ = exec i { s with pending := rest } := by rw [hdecode]; rfl

theorem perform_symbol_eq_selectOp {d : DecoderState} (h : s.dec = some d) (sym : Symbol) :
    perform (.symbol sym) s = exec (selectOp s.cfg d.mode sym) s := by
  rw [perform_symbol_of_some h, symbolOfWord_toWord]

/-! ### A table word -/

theorem decodeBytes_lowHigh (c : Config) (ops : UnpackOperands) {v : Nat} (hv : v < 2 ^ 16) :
    decodeBytes c [BitVec.ofNat 8 v, BitVec.ofNat 8 (v / 256)] ops =
      if v < 2 ^ 12 then .ok (decode c ⟨BitVec.ofNat 12 v, ops⟩) else .error .widerThanTwelveBits := by
  have hhigh : v / 256 % 2 ^ 8 < 16 ↔ v < 2 ^ 12 := by omega
  have hword : v / 256 % 2 ^ 8 * 2 ^ 8 + v % 2 ^ 8 = v := by omega
  simp only [decodeBytes, BitVec.toNat_ofNat, hhigh, hword]

theorem decodeTableWord_eq_some {w : Nat} {i : Instr} (h : decodeTableWord 16 w = some i) :
    tableBits 16 w < 2 ^ 12 ∧ decode Config.thisHardware ⟨BitVec.ofNat 12 (tableBits 16 w), noOperands⟩ = i := by
  have hv : tableBits 16 w < 2 ^ 16 := Nat.mod_lt _ (by decide)
  rw [decodeTableWord, if_pos hv, decodeBytes_lowHigh _ _ hv] at h
  split at h
  · exact ⟨‹_›, Option.some.inj h⟩
  · cases h

theorem freshDecoder_mode (c : Config) (m : Mode) : (freshDecoder c m).mode = m := by
  cases m <;> rfl

theorem decoderInMode_mode (c : Config) (m : Mode) (dec : Option DecoderState) : (decoderInMode c m dec).mode = m := by
  unfold decoderInMode
  split
  · split
    · assumption
    · exact freshDecoder_mode c m
  · exact freshDecoder_mode c m

theorem withFetchWord_of_lt {w : Nat} (h : tableBits 16 w < 2 ^ 12) (s : State) :
    s.withFetchWord 16 w = deliverWord (BitVec.ofNat 12 (tableBits 16 w)) s := if_pos h

/-- The step after a delivery runs the word's operation and leaves the queue as it was before it. -/
theorem step_deliverWord (w : OpWord) (s : State) :
    step (deliverWord w s) = exec (decode s.cfg ⟨w, noOperands⟩) ((deliverWord w s).setPending s.pending) := by
  have hreq : reqField w = 0 ∨ reqField w = 1 ∨ reqField w = 2 ∨ reqField w = 3 := by
    have hw := w.isLt
    rw [reqField_eq]
    omega
  rcases hreq with h | h | h | h
  · rw [deliverWord, if_pos h, step_of_pending rfl, perform_symbol_eq_selectOp rfl, decoderInMode_mode, decode, if_pos h]
    rfl
  · simp [deliverWord, h, step, perform_reset, decode_of_req_one, exec]
  · simp [deliverWord, h, step, perform_unpack, decode_of_req_two, exec]
  · simp [deliverWord, h, step, perform_disconnect, decode_of_req_three, exec]

/-- Settles O33: a table word that decodes is a 12-bit word, which is delivered. -/
theorem deliveredWordRunsNext : Obligations.DeliveredWordRunsNext := by
  intro s w i hcfg hdecode
  obtain ⟨hlt, hi⟩ := decodeTableWord_eq_some hdecode
  rw [withFetchWord_of_lt hlt, step_deliverWord, hcfg, hi]
  rfl

end Sys2Proof.Machine
end

section
/-! Pixels of an unpacked grid (30_encoding.md R67; 41_bitmap_unpacker.md R125). -/

namespace Sys2Proof.Machine

variable {payload : List Byte} {width height x y : Nat} {g : PixelGrid}

theorem gridPixel_unpack (hg : unpack payload width height = .grid g) (hx : x < width) (hy : y < height) :
    gridPixel g x y = some (pixelOf payload width x y) := by
  obtain ⟨-, rfl⟩ := unpack_eq_grid hg
  simp [gridPixel, unpackRow, hx, hy]

/-- `byte_index` of a pixel of the grid lies in the payload (20_memory.md R52). -/
theorem byteIndex_lt_length (hshape : 8 * payload.length = width * height) (hx : x < width) (hy : y < height) :
    byteIndex width x y < payload.length := by
  have hpixel : y * width + x < 8 * payload.length :=
    calc y * width + x
      _ < y * width + width := Nat.add_lt_add_left hx _
      _ = (y + 1) * width := (Nat.succ_mul y width).symm
      _ ≤ height * width := Nat.mul_le_mul_right width hy
      _ = 8 * payload.length := by rw [hshape, Nat.mul_comm]
  exact Nat.div_lt_of_lt_mul hpixel

theorem payloadByte_of_lt {index : Nat} (h : index < payload.length) :
    payload[index]? = some (payloadByte payload index) := by
  rw [payloadByte, List.getD_eq_getElem?_getD, List.getElem?_eq_getElem h, Option.getD_some]

/-- Settles O16: the pixel is `pixelOf`, whose byte is one of the payload's. -/
theorem unpackPixelIsIndexedBit : Obligations.UnpackPixelIsIndexedBit := by
  intro payload width height x y g hg hx hy
  have hindex := byteIndex_lt_length (unpack_eq_grid hg).1 hx hy
  exact ⟨payloadByte payload (byteIndex width x y), payloadByte_of_lt hindex, gridPixel_unpack hg hx hy⟩

/-- The bit of a byte as a number (00_scope.md R11) and as a Boolean. -/
theorem bit_eq_zero_iff (v : Byte) (i : Nat) : v.toNat / 2 ^ i % 2 = 0 ↔ v.getLsbD i = false := by
  rw [BitVec.getLsbD, Nat.testBit_eq_decide_div_mod_eq, decide_eq_false_iff_not]
  omega

/-- Settles O18: the indexed bit of O16, its indices computed for a width of whole bytes. -/
theorem unpackScattersRowBytes : Obligations.UnpackScattersRowBytes := by
  intro payload rowBytes height y k j g hg hy hk hj
  obtain ⟨v, hv, hpixel⟩ := unpackPixelIsIndexedBit payload (8 * rowBytes) height (8 * k + j) y g hg (by omega) hy
  have hbyte : (y * (8 * rowBytes) + (8 * k + j)) / 8 = y * rowBytes + k := by
    rw [Nat.mul_left_comm]
    omega
  have hcolumn : (8 * k + j) % 8 = j := by omega
  rw [hbyte] at hv
  simp only [hcolumn, bit_eq_zero_iff] at hpixel
  refine ⟨v, hv, hpixel.trans ?_⟩
  cases v.getLsbD (7 - j) <;> rfl

end Sys2Proof.Machine
end

section
/-! Why an operation is refused (93_implementation_defined.md U1, U3, U4, U6; 30_encoding.md R62). -/

namespace Sys2Proof.Machine

variable {s : State} {m : Mode} {why : Refusal} {i : Instr}

/-! ### The mode of an operation -/

/-- The mode whose symbols can select the operation (30_encoding.md R62). -/
def opMode : Instr → Option Mode
  | .tLf => some .textMode
  | .tChar _ => some .textMode
  | .tEos => some .textMode
  | .aData _ => some .awaitingImageBytes
  | .aEos => some .awaitingImageBytes
  | .reset => none
  | .unpack _ _ _ => none
  | .disconnect => none

theorem opMode_selectOp (c : Config) (m : Mode) (sym : Symbol) : opMode (selectOp c m sym) = some m := by
  cases m with
  | textMode =>
    cases sym with
    | byte b => simp only [selectOp]; split <;> rfl
    | eos => rfl
  | awaitingImageBytes => cases sym <;> rfl

theorem not_selectable_of_mode_ne {c : Config} {m' : Mode} (hi : opMode i = some m) (hm : m' ≠ m) :
    ¬ selectable c m' i := by
  rintro ⟨sym, rfl⟩
  exact hm (Option.some.inj ((opMode_selectOp c m' sym).symm.trans hi))

theorem isStreamOp_eq_isSome_opMode (i : Instr) : isStreamOp i = (opMode i).isSome := by
  cases i <;> rfl

theorem not_selectable_tChar_terminator (c : Config) (m : Mode) : ¬ selectable c m (.tChar c.lineTerminator) := by
  rintro ⟨sym, hsym⟩
  cases m with
  | textMode =>
    cases sym with
    | byte b =>
      by_cases hb : b = c.lineTerminator
      · rw [hb, selectOp_terminator] at hsym; cases hsym
      · rw [selectOp_of_ne_terminator c hb] at hsym; cases hsym; exact hb rfl
    | eos => cases hsym
  | awaitingImageBytes => cases sym <;> cases hsym

/-! ### Where a refusal can come from -/

/-- The reasons the spec gives for refusing an operation in a decoder state that exists: U4, R62 and U1. -/
def RefusedInState (i : Instr) (s : State) (d : DecoderState) (why : Refusal) : Prop :=
  (why = .illFormedState ∧ ¬ d.wf s.cfg) ∨
  (why = .notSelected ∧ ¬ selectable s.cfg d.mode i) ∨
  (why = .lineBufferOverflow ∧ (∃ b, i = .tChar b) ∧ lineFits s.cfg (d.linebuf.length + 1) = false)

/-- The reasons the spec gives for refusing an operation. -/
def RefusalCause (i : Instr) (s : State) (why : Refusal) : Prop :=
  (why = .badConfiguration ∧ ¬ s.cfg.wf) ∨
  (isStreamOp i = true ∧ why = .noDecoderState ∧ s.dec = none) ∨
  (∃ d, s.dec = some d ∧ isStreamOp i = true ∧ RefusedInState i s d why)

theorem configured_next_refused {s' : State} (h : configured s (.next s') = .refused why) : RefusalCause i s why := by
  unfold configured at h
  split at h
  · cases h
  · next hc => cases h; exact .inl ⟨rfl, hc⟩

/-- The checks refuse for the reasons given; what is left is the operation's own action, in a state ready for it. -/
theorem onStream_refused {act : DecoderState → Result} (hi : opMode i = some m) (h : onStream m s act = .refused why)
    (hact : ∀ d, Ready m s d → act d = .refused why → RefusedInState i s d why) : RefusalCause i s why := by
  have hstream : isStreamOp i = true := by rw [isStreamOp_eq_isSome_opMode, hi]; rfl
  rcases onStream_cases m s act with ⟨hc, hr⟩ | ⟨-, hd, hr⟩ | ⟨d, -, hd, hw, hr⟩ | ⟨d, -, hd, -, hm, hr⟩ | ⟨d, hready, hr⟩
  · cases hr.symm.trans h; exact .inl ⟨rfl, hc⟩
  · cases hr.symm.trans h; exact .inr (.inl ⟨hstream, rfl, hd⟩)
  · cases hr.symm.trans h; exact .inr (.inr ⟨d, hd, hstream, .inl ⟨rfl, hw⟩⟩)
  · cases hr.symm.trans h
    exact .inr (.inr ⟨d, hd, hstream, .inr (.inl ⟨rfl, not_selectable_of_mode_ne hi hm⟩)⟩)
  · exact .inr (.inr ⟨d, hready.2.1, hstream, hact d hready (hr.symm.trans h)⟩)

theorem emit_ne_refused (ev : DecodedEvent) (s : State) : emit ev s ≠ .refused why := by
  unfold emit
  split <;> nofun

theorem execTLf_refused (h : execTLf s = .refused why) : RefusalCause .tLf s why :=
  onStream_refused rfl h fun d _ hact => by
    split at hact
    · cases hact
    · split at hact
      · cases hact
      · cases hact

theorem execTChar_refused {b : Byte} (h : execTChar b s = .refused why) : RefusalCause (.tChar b) s why :=
  onStream_refused rfl h fun d _ hact => by
    split at hact
    · next hb => cases hact; exact .inr (.inl ⟨rfl, hb ▸ not_selectable_tChar_terminator s.cfg d.mode⟩)
    · split at hact
      · cases hact
      · next hfull => cases hact; exact .inr (.inr ⟨rfl, ⟨b, rfl⟩, Bool.eq_false_iff.2 hfull⟩)

theorem execAData_refused {b : Byte} (h : execAData b s = .refused why) : RefusalCause (.aData b) s why :=
  onStream_refused rfl h fun d _ hact => by
    dsimp only at hact
    split at hact
    · exact absurd hact (emit_ne_refused _ _)
    · cases hact

/-- Settles O51, by the operation. -/
theorem refusalsHaveStatedCauses : Obligations.RefusalsHaveStatedCauses := by
  intro i s why h
  change RefusalCause i s why
  cases i with
  | tLf => exact execTLf_refused h
  | tChar b => exact execTChar_refused h
  | tEos => exact onStream_refused rfl h fun _ _ hact => by cases hact
  | aData b => exact execAData_refused h
  | aEos => exact onStream_refused rfl h fun _ _ hact => by cases hact
  | reset => exact configured_next_refused h
  | unpack payload width height => exact configured_next_refused h
  | disconnect => exact configured_next_refused h

end Sys2Proof.Machine
end

section
/-! Streams (30_encoding.md R61, R63, R66; 40_decoder_symbols.md R100 to R105): the cut into chunks is invisible, and each
complete unit gives one event. -/

namespace Sys2Proof.Machine

variable {s : State} {d : DecoderState} {m : Mode}

/-! ### Chunks -/

theorem feed_append (a b : List Byte) (s : State) : feed (a ++ b) s = andThen (feed a s) (feed b) := by
  simp only [feed, List.map_append, run_append]
  rfl

theorem feed_cons (b : Byte) (rest : List Byte) (s : State) :
    feed (b :: rest) s = andThen (perform (.symbol (.byte b)) s) (feed rest) := rfl

theorem feed_singleton (b : Byte) (s : State) : feed [b] s = perform (.symbol (.byte b)) s := by
  rw [feed_cons]
  cases perform (.symbol (.byte b)) s <;> rfl

/-- Settles O38, by induction on the chunks. -/
theorem chunkBoundariesAreInvisible : Obligations.ChunkBoundariesAreInvisible := by
  intro chunks
  induction chunks with
  | nil => exact fun _ => rfl
  | cons chunk rest ih =>
    intro s
    calc feedChunks (chunk :: rest) s
      _ = andThen (feed chunk s) (feed rest.flatten) := congrArg (andThen (feed chunk s)) (funext ih)
      _ = feed (chunk :: rest).flatten s := by rw [List.flatten_cons, feed_append]

/-! ### One byte in a ready state -/

theorem perform_symbol_of_ready (h : Ready m s d) (sym : Symbol) :
    perform (.symbol sym) s = exec (selectOp s.cfg m sym) s := by
  rw [perform_symbol_eq_selectOp h.2.1, h.2.2.2]

theorem perform_char_of_ready (h : Ready .textMode s d) {b : Byte} (hb : b ≠ s.cfg.lineTerminator)
    (hfits : lineFits s.cfg (d.linebuf.length + 1) = true) :
    perform (.symbol (.byte b)) s = .next (s.setDec (pushLine d b)) := by
  rw [perform_symbol_of_ready h, selectOp_of_ne_terminator _ hb]
  exact (onStream_of_ready h _).trans (by rw [if_neg hb, if_pos hfits])

theorem perform_terminator_of_ready (h : Ready .textMode s d) :
    perform (.symbol (.byte s.cfg.lineTerminator)) s = execTLf s := by
  rw [perform_symbol_of_ready h, selectOp_terminator]
  rfl

theorem perform_data_of_ready (h : Ready .awaitingImageBytes s d) (b : Byte) :
    perform (.symbol (.byte b)) s = execAData b s := perform_symbol_of_ready h _

/-! ### The outcomes of a terminator and of a payload byte -/

theorem execTLf_of_invalid (h : Ready .textMode s d) (hv : utf8Valid d.linebuf = false) :
    execTLf s = takeDecodeError (.invalidEncoding d.linebuf) s :=
  (onStream_of_ready h _).trans (if_pos hv)

theorem clearLine_eq_reset (h : Ready .textMode s d) : clearLine d = DecoderState.reset := by
  rw [DecoderState.eq_of_textMode h.2.2.1 h.2.2.2]
  rfl

theorem execTLf_of_marker (h : Ready .textMode s d) (hv : utf8Valid d.linebuf = true)
    (hm : isMarker s.cfg d.linebuf = true) :
    execTLf s = .next (s.setDec (startFrame s.cfg DecoderState.reset)) := by
  refine (onStream_of_ready h _).trans ?_
  rw [if_neg (by simp [hv]), if_pos hm, clearLine_eq_reset h]

theorem execTLf_of_logLine (h : Ready .textMode s d) (hv : utf8Valid d.linebuf = true)
    (hm : isMarker s.cfg d.linebuf = false) :
    execTLf s = emit (.logLine d.linebuf) (s.setDec DecoderState.reset) := by
  refine (onStream_of_ready h _).trans ?_
  rw [if_neg (by simp [hv]), if_neg (by simp [hm]), clearLine_eq_reset h]

theorem execAData_of_two_le (h : Ready .awaitingImageBytes s d) (b : Byte) (hr : 2 ≤ d.remaining) :
    execAData b s = .next (s.setDec (pushFrame d b)) :=
  (onStream_of_ready h _).trans (if_neg (by rw [pushFrame_remaining]; omega))

theorem execAData_of_one (h : Ready .awaitingImageBytes s d) (b : Byte) (hr : d.remaining = 1) :
    ∃ g, unpack (d.framebuf ++ [b]) s.cfg.width s.cfg.height = .grid g ∧
      execAData b s = .next ((s.setDec DecoderState.reset).record
        (.imageFrame (d.framebuf ++ [b]) s.cfg.width s.cfg.height) (.image g)) := by
  obtain ⟨hcfg, -, hwf, hmode⟩ := id h
  obtain ⟨-, hle, -, hlen⟩ := (DecoderState.wf_iff.1 hwf).2.1 hmode
  have hfinish : finishFrame (pushFrame d b) = DecoderState.reset := by
    rw [DecoderState.eq_of_awaiting hwf hmode, hr]; rfl
  have hframe : (d.framebuf ++ [b]).length = s.cfg.frameBytes := by
    rw [List.length_append, hlen, List.length_singleton]; omega
  have hgrid := unpack_of_shape (Config.frame_shape hcfg hframe)
  refine ⟨_, hgrid, (onStream_of_ready h _).trans ?_⟩
  rw [if_pos (by rw [pushFrame_remaining, hr]), hfinish]
  exact emit_of_item (by simp only [sinkItemOf, pushFrame_framebuf, hgrid]) _

/-! ### Lines, payloads and units -/

theorem ready_reset (hcfg : s.cfg.wf) (hdec : s.dec = some DecoderState.reset) :
    Ready .textMode s DecoderState.reset := ⟨hcfg, hdec, reset_wf s.cfg, rfl⟩

theorem setDec_eq_self (hdec : s.dec = some d) : s.setDec d = s := by
  rw [State.setDec, ← hdec]

/-- The bytes of a line that are not its terminator are stored in order. -/
theorem feed_line (seg : List Byte) (h : Ready .textMode s d) (hterm : s.cfg.lineTerminator ∉ seg)
    (hfits : lineFits s.cfg (d.linebuf.length + seg.length) = true) :
    ∃ d', d'.linebuf = d.linebuf ++ seg ∧ Ready .textMode (s.setDec d') d' ∧ feed seg s = .next (s.setDec d') := by
  induction seg generalizing s d with
  | nil =>
    have hself := setDec_eq_self h.2.1
    exact ⟨d, (List.append_nil _).symm, by rwa [hself], by rw [hself]; rfl⟩
  | cons b rest ih =>
    obtain ⟨hb, hrest⟩ := not_or.1 (mt List.mem_cons.2 hterm)
    have hb := Ne.symm hb
    have hone : lineFits s.cfg (d.linebuf.length + 1) = true :=
      lineFits_mono hfits (by rw [List.length_cons]; omega)
    have hready : Ready .textMode (s.setDec (pushLine d b)) (pushLine d b) :=
      ⟨h.1, rfl, pushLine_wf h.2.2.1 h.2.2.2 hb hone, h.2.2.2⟩
    have hmore : lineFits s.cfg ((pushLine d b).linebuf.length + rest.length) = true := by
      refine lineFits_mono hfits ?_
      rw [pushLine_linebuf, List.length_append, List.length_singleton, List.length_cons]
      omega
    obtain ⟨d', hline, hready', hfeed⟩ := ih hready hrest hmore
    refine ⟨d', by rw [hline, pushLine_linebuf, List.append_assoc]; rfl, hready', ?_⟩
    rw [feed_cons, perform_char_of_ready h hb hone]
    exact hfeed

/-- The bytes still to come of a frame, whatever their values, complete it. -/
theorem feed_payload (chunk : List Byte) (h : Ready .awaitingImageBytes s d) (hlen : chunk.length = d.remaining) :
    ∃ g, unpack (d.framebuf ++ chunk) s.cfg.width s.cfg.height = .grid g ∧
      feed chunk s = .next ((s.setDec DecoderState.reset).record
        (.imageFrame (d.framebuf ++ chunk) s.cfg.width s.cfg.height) (.image g)) := by
  induction chunk generalizing s d with
  | nil =>
    obtain ⟨hpos, -⟩ := (DecoderState.wf_iff.1 h.2.2.1).2.1 h.2.2.2
    rw [List.length_nil] at hlen
    omega
  | cons b rest ih =>
    rw [List.length_cons] at hlen
    by_cases hlast : rest = []
    · subst hlast
      rw [feed_singleton, perform_data_of_ready h]
      exact execAData_of_one h b hlen.symm
    · have hr : 2 ≤ d.remaining := by have := List.length_pos_of_ne_nil hlast; omega
      have hready : Ready .awaitingImageBytes (s.setDec (pushFrame d b)) (pushFrame d b) :=
        ⟨h.1, rfl, pushFrame_wf h.2.2.1 h.2.2.2 b hr, h.2.2.2⟩
      obtain ⟨g, hgrid, hfeed⟩ := ih hready (by rw [pushFrame_remaining]; omega)
      rw [pushFrame_framebuf, List.append_assoc] at hgrid hfeed
      refine ⟨g, hgrid, ?_⟩
      rw [feed_cons, perform_data_of_ready h, execAData_of_two_le h b hr]
      exact hfeed

/-- A line and its terminator, from the reset state: the end of the line decides what it was. -/
theorem feed_line_terminator (seg : List Byte) (hcfg : s.cfg.wf) (hdec : s.dec = some DecoderState.reset)
    (hterm : s.cfg.lineTerminator ∉ seg) (hfits : lineFits s.cfg seg.length = true) :
    ∃ d, d.linebuf = seg ∧ Ready .textMode (s.setDec d) d ∧
      feed (seg ++ [s.cfg.lineTerminator]) s = execTLf (s.setDec d) := by
  obtain ⟨d, hline, hready, hfeed⟩ := feed_line seg (ready_reset hcfg hdec) hterm (by simpa using hfits)
  refine ⟨d, hline, hready, ?_⟩
  rw [feed_append, hfeed, andThen_next, feed_singleton]
  exact perform_terminator_of_ready hready

/-- A complete unit, from the reset state, gives its one event and the reset state again. -/
theorem feed_wireBytes (u : WireUnit) (hcfg : s.cfg.wf) (hdec : s.dec = some DecoderState.reset)
    (hu : unitWf s.cfg u) :
    ∃ item, feed (wireBytes s.cfg u) s = .next (s.record (unitEvent s.cfg u) item) := by
  have hself := setDec_eq_self hdec
  cases u with
  | line seg =>
    obtain ⟨hterm, hfits, hplain⟩ := hu
    obtain ⟨d, rfl, hready, hfeed⟩ := feed_line_terminator seg hcfg hdec hterm hfits
    rw [wireBytes, hfeed, unitEvent]
    cases hv : utf8Valid d.linebuf with
    | false => exact ⟨_, by rw [execTLf_of_invalid hready hv, takeDecodeError_eq, State.setDec_setDec, hself]; rfl⟩
    | true =>
      have hm : isMarker s.cfg d.linebuf = false := Bool.eq_false_iff.2 fun hm => hplain ⟨hv, hm⟩
      exact ⟨_, by rw [execTLf_of_logLine hready hv hm, emit_logLine, State.setDec_setDec, hself]; rfl⟩
  | frame seg payload =>
    obtain ⟨hterm, hfits, hv, hm, hlen⟩ := hu
    obtain ⟨d, rfl, hready, hfeed⟩ := feed_line_terminator seg hcfg hdec hterm hfits
    have hstart : Ready .awaitingImageBytes (s.setDec (startFrame s.cfg DecoderState.reset))
        (startFrame s.cfg DecoderState.reset) := ⟨hcfg, rfl, startFrame_wf hcfg, rfl⟩
    obtain ⟨g, -, hpayload⟩ := feed_payload payload hstart hlen
    refine ⟨.image g, ?_⟩
    rw [wireBytes, feed_append, hfeed, execTLf_of_marker hready hv hm, andThen_next]
    exact hpayload.trans (by rw [State.setDec_setDec, hself]; rfl)

/-- Settles O42, by induction on the units: each is fed from the reset state that the one before it left. -/
theorem completeStreamGivesOneEventPerUnit : Obligations.CompleteStreamGivesOneEventPerUnit := by
  intro units
  induction units with
  | nil => exact fun s _ hdec _ => ⟨s, rfl, hdec, (List.append_nil _).symm⟩
  | cons u rest ih =>
    intro s hcfg hdec hunits
    obtain ⟨hu, hrest⟩ := List.forall_mem_cons.1 hunits
    obtain ⟨item, hfirst⟩ := feed_wireBytes u hcfg hdec hu
    obtain ⟨s', hfeed, hdec', hevents⟩ := ih (s.record (unitEvent s.cfg u) item) hcfg hdec hrest
    refine ⟨s', ?_, hdec', ?_⟩
    · rw [List.flatMap_cons, feed_append, hfirst]
      exact hfeed
    · rw [hevents, State.record_events, List.append_assoc]
      rfl

end Sys2Proof.Machine
end

section
/-! Bytes of the two buffers (20_memory.md R40): what a read returns after an append to a space and where a space is left as
it was. -/

namespace Sys2Proof.Machine

variable {s s' : State} {d : DecoderState} {sp : Space} {b : Byte}

theorem spaceBytes_linebuf_of_dec (h : s.dec = some d) : spaceBytes .linebuf s = d.linebuf := by
  simp only [spaceBytes, h]

theorem spaceBytes_framebuf_of_dec (h : s.dec = some d) : spaceBytes .framebuf s = d.framebuf := by
  simp only [spaceBytes, h]

/-- In `TextMode` the payload buffer is empty (10_state.md R25). -/
theorem spaceBytes_framebuf_of_textMode (h : Ready .textMode s d) : spaceBytes .framebuf s = [] := by
  obtain ⟨-, hdec, hwf, hmode⟩ := h
  rw [spaceBytes_framebuf_of_dec hdec]
  exact ((DecoderState.wf_iff.1 hwf).1 hmode).2

/-- In a frame the line buffer is empty (10_state.md R25). -/
theorem spaceBytes_linebuf_of_awaiting (h : Ready .awaitingImageBytes s d) : spaceBytes .linebuf s = [] := by
  obtain ⟨-, hdec, hwf, hmode⟩ := h
  rw [spaceBytes_linebuf_of_dec hdec, DecoderState.eq_of_awaiting hwf hmode]

theorem memRead_congr (h : spaceBytes sp s' = spaceBytes sp s) (a : Nat) : memRead sp a s' = memRead sp a s := by
  rw [memRead, memRead, h]

theorem memRead_appended (h : spaceBytes sp s' = spaceBytes sp s ++ [b]) :
    memRead sp (spaceBytes sp s).length s' = some b := by
  rw [memRead, h, List.getElem?_concat_length]

theorem memRead_of_append_of_ne (h : spaceBytes sp s' = spaceBytes sp s ++ [b]) {a : Nat}
    (ha : a ≠ (spaceBytes sp s).length) : memRead sp a s' = memRead sp a s := by
  rw [memRead, memRead, h]
  rcases Nat.lt_or_gt_of_ne ha with hlt | hgt
  · exact List.getElem?_append_left hlt
  · rw [List.getElem?_eq_none (Nat.le_of_lt hgt), List.getElem?_eq_none]
    rwa [List.length_append, List.length_singleton]

end Sys2Proof.Machine
end

section
/-! The decoder's operations in a state ready for them (40_decoder_symbols.md R91 to R99). -/

namespace Sys2Proof.Machine

variable {s : State} {d : DecoderState}

/-! ### Operations in TextMode -/

theorem execTChar_of_ready (h : Ready .textMode s d) {b : Byte} (hb : b ≠ s.cfg.lineTerminator)
    (hfits : lineFits s.cfg (d.linebuf.length + 1) = true) : execTChar b s = .next (s.setDec (pushLine d b)) :=
  (onStream_of_ready h _).trans (by rw [if_neg hb, if_pos hfits])

/-- Settles O1: the state `pushLine` gives is the statement's. -/
theorem tCharAppendsByteToLine : Obligations.TCharAppendsByteToLine :=
  fun _ _ _ h hb hfits => execTChar_of_ready h hb hfits

/-- Settles O2: a `T.CHAR` that gives a next state has appended one byte to `linebuf` and kept `framebuf`. -/
theorem tCharStoresOnlyAtLineEnd : Obligations.TCharStoresOnlyAtLineEnd := by
  intro s s' b h
  obtain ⟨d, ⟨-, hdec, -, -⟩, -, -, rfl⟩ := execTChar_next h
  have hline : spaceBytes .linebuf (s.setDec (pushLine d b)) = spaceBytes .linebuf s ++ [b] := by
    rw [spaceBytes_linebuf_of_dec hdec]; rfl
  have hframe : spaceBytes .framebuf (s.setDec (pushLine d b)) = spaceBytes .framebuf s := by
    rw [spaceBytes_framebuf_of_dec hdec]; rfl
  exact ⟨memRead_appended hline, fun _ => memRead_of_append_of_ne hline, memRead_congr hframe⟩

/-- Settles O3, by the two tests in R92's order. -/
theorem tLfTestsInOrderAndClearsLine : Obligations.TLfTestsInOrderAndClearsLine := by
  intro s d h
  cases hv : utf8Valid d.linebuf with
  | false =>
    refine ⟨_, _, (execTLf_of_invalid h hv).trans (takeDecodeError_eq _ s), rfl, rfl, rfl, ?_⟩
    rw [if_pos rfl]
    exact ⟨rfl, rfl, _, rfl, rfl⟩
  | true =>
    cases hm : isMarker s.cfg d.linebuf with
    | true =>
      refine ⟨_, _, execTLf_of_marker h hv hm, rfl, rfl, rfl, ?_⟩
      rw [if_neg nofun, if_pos rfl]
      exact ⟨rfl, rfl, rfl⟩
    | false =>
      refine ⟨_, _, (execTLf_of_logLine h hv hm).trans (emit_logLine _ _), rfl, rfl, rfl, ?_⟩
      rw [if_neg nofun, if_neg nofun]
      exact ⟨rfl, rfl, rfl⟩

/-- Settles O5: a frame starts from the reset state's empty buffers. -/
theorem tLfMarkerStartsFrame : Obligations.TLfMarkerStartsFrame :=
  fun _ _ h hv hm => execTLf_of_marker h hv hm

/-! ### Operations in AwaitingImageBytes -/

theorem execAEos_of_ready (h : Ready .awaitingImageBytes s d) :
    execAEos s = .next ((s.setDec DecoderState.reset).record
      (.decodeError (.truncatedFrame (s.cfg.frameBytes - d.remaining)))
      (.text (.error (.truncatedFrame (s.cfg.frameBytes - d.remaining))))) :=
  (onStream_of_ready h _).trans (takeDecodeError_eq _ s)

/-- A frame that ends leaves the reset state: its line buffer was empty all along (10_state.md R25). -/
theorem endFrame_eq_reset (h : Ready .awaitingImageBytes s d) :
    { d with mode := .textMode, remaining := 0, framebuf := [] } = DecoderState.reset := by
  obtain ⟨-, -, hwf, hmode⟩ := h
  rw [DecoderState.eq_of_awaiting hwf hmode]
  rfl

/-- Settles O8, by whether this is the frame's last byte. -/
theorem aDataCountsAndCompletesFrame : Obligations.ADataCountsAndCompletesFrame := by
  intro s d b h
  refine ⟨execAData_of_two_le h b, fun hlast => ?_⟩
  obtain ⟨g, -, hexec⟩ := execAData_of_one h b hlast
  refine ⟨[.image g], ?_⟩
  rw [endFrame_eq_reset h]
  exact hexec

/-- Settles O9: while the frame goes on, `A.DATA` has appended one byte to `framebuf` and kept `linebuf`. -/
theorem aDataStoresOnlyAtFrameEnd : Obligations.ADataStoresOnlyAtFrameEnd := by
  intro s s' d b hdec hmore h
  obtain ⟨d', ⟨-, hdec', -, -⟩, hcases⟩ := execAData_next h
  obtain rfl : d = d' := Option.some.inj (hdec.symm.trans hdec')
  rcases hcases with ⟨-, rfl⟩ | ⟨hlast, -⟩
  · have hframe : spaceBytes .framebuf (s.setDec (pushFrame d b)) = spaceBytes .framebuf s ++ [b] := by
      rw [spaceBytes_framebuf_of_dec hdec]; rfl
    have hline : spaceBytes .linebuf (s.setDec (pushFrame d b)) = spaceBytes .linebuf s := by
      rw [spaceBytes_linebuf_of_dec hdec]; rfl
    rw [← spaceBytes_framebuf_of_dec hdec]
    exact ⟨memRead_appended hframe, fun _ => memRead_of_append_of_ne hframe, memRead_congr hline⟩
  · omega

/-- Settles O10: the error's text item is the one item that goes out. -/
theorem aEosReportsTruncatedFrame : Obligations.AEosReportsTruncatedFrame :=
  fun _ _ h => ⟨_, execAEos_of_ready h⟩

end Sys2Proof.Machine
end

section
/-! Every symbol has a result with at most one event (40_decoder_symbols.md R90), and `feed` takes a chunk byte by byte
(R100). -/

namespace Sys2Proof.Machine

variable {s : State} {d : DecoderState}

/-- A next state, reached from `s` with no event or exactly one. -/
def AcceptedFrom (s : State) (r : Result) : Prop :=
  ∃ (s' : State) (out : Option DecodedEvent), r = .next s' ∧ s'.events = s.events ++ out.toList

theorem acceptedFrom_of_silent {r : Result} {s' : State} (h : r = .next s') (hev : s'.events = s.events) :
    AcceptedFrom s r := ⟨s', none, h, by rw [hev, Option.toList_none, List.append_nil]⟩

theorem acceptedFrom_of_event {r : Result} {s' : State} {ev : DecodedEvent} (h : r = .next s')
    (hev : s'.events = s.events ++ [ev]) : AcceptedFrom s r := ⟨s', some ev, h, hev⟩

theorem execTLf_accepted (h : Ready .textMode s d) : AcceptedFrom s (execTLf s) := by
  cases hv : utf8Valid d.linebuf with
  | false => exact acceptedFrom_of_event (execTLf_of_invalid h hv) rfl
  | true =>
    cases hm : isMarker s.cfg d.linebuf with
    | true => exact acceptedFrom_of_silent (execTLf_of_marker h hv hm) rfl
    | false => exact acceptedFrom_of_event (execTLf_of_logLine h hv hm) rfl

theorem execAData_accepted (h : Ready .awaitingImageBytes s d) (b : Byte) : AcceptedFrom s (execAData b s) := by
  obtain ⟨-, -, hwf, hmode⟩ := id h
  obtain ⟨hpos, -⟩ := (DecoderState.wf_iff.1 hwf).2.1 hmode
  rcases Nat.eq_or_lt_of_le hpos with hlast | hmore
  · obtain ⟨g, -, hexec⟩ := execAData_of_one h b hlast.symm
    exact acceptedFrom_of_event hexec rfl
  · exact acceptedFrom_of_silent (execAData_of_two_le h b hmore) rfl

theorem lineFits_of_unbounded {c : Config} (h : c.lineBufCap = none) (n : Nat) : lineFits c n = true := by
  rw [lineFits, h]

/-- Settles O34, by the mode and the symbol. -/
theorem everySymbolIsAccepted : Obligations.EverySymbolIsAccepted := by
  intro s d sym hcfg hcap hdec hwf
  have hselect := perform_symbol_eq_selectOp hdec sym
  refine ⟨hselect, ?_⟩
  change AcceptedFrom s (perform (.symbol sym) s)
  rw [hselect]
  cases hmode : d.mode with
  | textMode =>
    have hready : Ready .textMode s d := ⟨hcfg, hdec, hwf, hmode⟩
    cases sym with
    | byte b =>
      by_cases hb : b = s.cfg.lineTerminator
      · rw [hb, selectOp_terminator]
        exact execTLf_accepted hready
      · rw [selectOp_of_ne_terminator _ hb]
        exact acceptedFrom_of_silent (execTChar_of_ready hready hb (lineFits_of_unbounded hcap _)) rfl
    | eos => exact acceptedFrom_of_silent (onStream_of_ready hready _) rfl
  | awaitingImageBytes =>
    have hready : Ready .awaitingImageBytes s d := ⟨hcfg, hdec, hwf, hmode⟩
    cases sym with
    | byte b => exact execAData_accepted hready b
    | eos => exact acceptedFrom_of_event (execAEos_of_ready hready) rfl

/-- Settles O37: the empty chunk by definition, a first byte by `feed_cons`. -/
theorem feedIsBytesInOrder : Obligations.FeedIsBytesInOrder :=
  fun s => ⟨rfl, fun b rest => feed_cons b rest s⟩

end Sys2Proof.Machine
end

section
/-! Payload bytes that do not yet complete a frame (40_decoder_symbols.md R97, R99, R103, R105). -/

namespace Sys2Proof.Machine

variable {s : State} {d : DecoderState}

/-- The state after the bytes of a chunk have been stored and counted. -/
def storePayload (d : DecoderState) (chunk : List Byte) : DecoderState :=
  { d with framebuf := d.framebuf ++ chunk, remaining := d.remaining - chunk.length }

@[simp] theorem storePayload_remaining (d : DecoderState) (chunk : List Byte) :
    (storePayload d chunk).remaining = d.remaining - chunk.length := rfl

theorem storePayload_nil (d : DecoderState) : storePayload d [] = d := by
  simp only [storePayload, List.append_nil, List.length_nil, Nat.sub_zero]

theorem storePayload_cons (d : DecoderState) (b : Byte) (rest : List Byte) :
    storePayload d (b :: rest) = storePayload (pushFrame d b) rest := by
  have hcount : d.remaining - (rest.length + 1) = d.remaining - 1 - rest.length := by omega
  simp only [storePayload, pushFrame, List.append_assoc, List.singleton_append, List.length_cons, hcount]

theorem ready_pushFrame (h : Ready .awaitingImageBytes s d) (b : Byte) (hr : 2 ≤ d.remaining) :
    Ready .awaitingImageBytes (s.setDec (pushFrame d b)) (pushFrame d b) := by
  obtain ⟨hcfg, -, hwf, hmode⟩ := h
  exact ⟨hcfg, rfl, pushFrame_wf hwf hmode b hr, hmode⟩

/-- Fewer bytes than a frame still lacks are stored and counted, and the frame goes on. -/
theorem feed_short_payload (chunk : List Byte) (h : Ready .awaitingImageBytes s d)
    (hlen : chunk.length < d.remaining) :
    Ready .awaitingImageBytes (s.setDec (storePayload d chunk)) (storePayload d chunk) ∧
      feed chunk s = .next (s.setDec (storePayload d chunk)) := by
  induction chunk generalizing s d with
  | nil =>
    obtain ⟨-, hdec, -, -⟩ := id h
    rw [storePayload_nil, setDec_eq_self hdec]
    exact ⟨h, rfl⟩
  | cons b rest ih =>
    rw [List.length_cons] at hlen
    have hr : 2 ≤ d.remaining := by omega
    rw [storePayload_cons, feed_cons, perform_data_of_ready h, execAData_of_two_le h b hr]
    exact ih (ready_pushFrame h b hr) (by rw [pushFrame_remaining]; omega)

/-- Settles O41: a shorter chunk is stored, one of the frame's remaining length completes it. -/
theorem payloadBytesAreCountedNotRead : Obligations.PayloadBytesAreCountedNotRead :=
  fun _ _ chunk h => ⟨fun hlen => (feed_short_payload chunk h hlen).2, feed_payload chunk h⟩

theorem run_singleton (sym : Symbol) (s : State) : run [sym] s = perform (.symbol sym) s := by
  change andThen (perform (.symbol sym) s) (performAll []) = _
  cases perform (.symbol sym) s <;> rfl

/-- A marker line and fewer bytes than a frame, from the reset state, leave the frame unfinished with those bytes
stored. -/
theorem feed_short_frame {seg part : List Byte} (hcfg : s.cfg.wf) (hdec : s.dec = some DecoderState.reset)
    (hterm : s.cfg.lineTerminator ∉ seg) (hfits : lineFits s.cfg seg.length = true) (hv : utf8Valid seg = true)
    (hm : isMarker s.cfg seg = true) (hpart : part.length < s.cfg.frameBytes) :
    ∃ d, d.remaining = s.cfg.frameBytes - part.length ∧ Ready .awaitingImageBytes (s.setDec d) d ∧
      feed (seg ++ [s.cfg.lineTerminator] ++ part) s = .next (s.setDec d) := by
  obtain ⟨line, rfl, hline, hfeed⟩ := feed_line_terminator seg hcfg hdec hterm hfits
  have hstart : Ready .awaitingImageBytes (s.setDec (startFrame s.cfg DecoderState.reset))
      (startFrame s.cfg DecoderState.reset) := ⟨hcfg, rfl, startFrame_wf hcfg, rfl⟩
  obtain ⟨hready, hstored⟩ := feed_short_payload part hstart hpart
  refine ⟨_, rfl, hready, ?_⟩
  rw [feed_append, hfeed, execTLf_of_marker hline hv hm, andThen_next]
  exact hstored

/-- Settles O43: `EOS` in the unfinished frame reports the bytes it had stored. -/
theorem shortFrameGivesOneTruncatedError : Obligations.ShortFrameGivesOneTruncatedError := by
  intro s seg part hcfg hdec hterm hfits hv hm hpart
  obtain ⟨d, hleft, hready, hfeed⟩ := feed_short_frame hcfg hdec hterm hfits hv hm hpart
  have hcount : s.cfg.frameBytes - d.remaining = part.length := by omega
  have hrun := calc run ((seg ++ [s.cfg.lineTerminator] ++ part).map .byte ++ [.eos]) s
    _ = andThen (feed (seg ++ [s.cfg.lineTerminator] ++ part) s) (run [.eos]) := run_append _ _ s
    _ = perform (.symbol .eos) (s.setDec d) := by rw [hfeed, andThen_next, run_singleton]
    _ = execAEos (s.setDec d) := perform_symbol_of_ready hready .eos
  refine ⟨_, hrun.trans (execAEos_of_ready hready), rfl, ?_⟩
  rw [State.record_events, State.setDec_cfg, hcount]
  rfl

end Sys2Proof.Machine
end

section
/-! Frames: what each operation leaves unchanged (10_state.md R29; 40_decoder_symbols.md R91, R102; 60_exceptions.md
R153). -/

namespace Sys2Proof.Machine

variable {s s' : State} {i : Instr}

/-- `UNPACK` answers its caller and does nothing else; every other operation writes the decoder's state, the events and the
sinks alone. -/
theorem exec_next_cases (h : exec i s = .next s') :
    (∃ p w k, i = .unpack p w k ∧ s' = s.addResult (unpack p w k)) ∨
    ((∀ p w k, i ≠ .unpack p w k) ∧ s' = { s with dec := s'.dec, events := s'.events, sinks := s'.sinks }) := by
  cases i with
  | tLf =>
    obtain ⟨d, -, ⟨-, rfl⟩ | ⟨-, -, rfl⟩ | ⟨-, -, rfl⟩⟩ := execTLf_next h
    · exact .inr ⟨nofun, rfl⟩
    · exact .inr ⟨nofun, rfl⟩
    · exact .inr ⟨nofun, rfl⟩
  | tChar b => obtain ⟨d, -, -, -, rfl⟩ := execTChar_next h; exact .inr ⟨nofun, rfl⟩
  | tEos => obtain ⟨d, -, rfl⟩ := execTEos_next h; exact .inr ⟨nofun, rfl⟩
  | aData b =>
    obtain ⟨d, -, ⟨-, rfl⟩ | ⟨-, g, -, rfl⟩⟩ := execAData_next h
    · exact .inr ⟨nofun, rfl⟩
    · exact .inr ⟨nofun, rfl⟩
  | aEos => obtain ⟨d, -, rfl⟩ := execAEos_next h; exact .inr ⟨nofun, rfl⟩
  | reset => obtain ⟨-, rfl⟩ := execReset_next h; exact .inr ⟨nofun, rfl⟩
  | unpack p w k => obtain ⟨-, rfl⟩ := execUnpack_next h; exact .inl ⟨p, w, k, rfl, rfl⟩
  | disconnect => obtain ⟨-, rfl⟩ := execDisconnect_next h; exact .inr ⟨nofun, rfl⟩

theorem exec_keeps_cfg (h : exec i s = .next s') : s'.cfg = s.cfg := by
  rcases exec_next_cases h with ⟨p, w, k, -, rfl⟩ | ⟨-, hs⟩
  · rfl
  · rw [hs]

theorem exec_keeps_pending (h : exec i s = .next s') : s'.pending = s.pending := by
  rcases exec_next_cases h with ⟨p, w, k, -, rfl⟩ | ⟨-, hs⟩
  · rfl
  · rw [hs]

theorem exec_keeps_results (h : exec i s = .next s') (hi : ∀ p w k, i ≠ .unpack p w k) : s'.results = s.results := by
  rcases exec_next_cases h with ⟨p, w, k, hu, -⟩ | ⟨-, hs⟩
  · exact absurd hu (hi p w k)
  · rw [hs]

theorem execUnpack_keeps_dec {p : List Byte} {w k : Nat} (h : execUnpack p w k s = .next s') : s'.dec = s.dec := by
  obtain ⟨-, rfl⟩ := execUnpack_next h
  rfl

/-- The operations that emit nothing in any state. -/
theorem exec_silent (h : exec i s = .next s')
    (hi : i = .tEos ∨ i = .reset ∨ i = .disconnect ∨ (∃ b, i = .tChar b) ∨ ∃ p w k, i = .unpack p w k) :
    s'.events = s.events ∧ s'.sinks = s.sinks := by
  rcases hi with rfl | rfl | rfl | ⟨b, rfl⟩ | ⟨p, w, k, rfl⟩
  · obtain ⟨d, -, rfl⟩ := execTEos_next h; exact ⟨rfl, rfl⟩
  · obtain ⟨-, rfl⟩ := execReset_next h; exact ⟨rfl, rfl⟩
  · obtain ⟨-, rfl⟩ := execDisconnect_next h; exact ⟨rfl, rfl⟩
  · obtain ⟨d, -, -, -, rfl⟩ := execTChar_next h; exact ⟨rfl, rfl⟩
  · obtain ⟨-, rfl⟩ := execUnpack_next h; exact ⟨rfl, rfl⟩

/-- In `TextMode` the payload buffer is empty before and after. -/
theorem exec_text_keeps_framebuf (h : exec i s = .next s') (hi : i = .tEos ∨ i = .tLf ∨ ∃ b, i = .tChar b) :
    spaceBytes .framebuf s' = spaceBytes .framebuf s := by
  rcases hi with rfl | rfl | ⟨b, rfl⟩
  · obtain ⟨d, -, rfl⟩ := execTEos_next h
    rfl
  · obtain ⟨d, hready, hcases⟩ := execTLf_next h
    rw [spaceBytes_framebuf_of_textMode hready]
    rcases hcases with ⟨-, rfl⟩ | ⟨-, -, rfl⟩ | ⟨-, -, rfl⟩
    · rfl
    · rfl
    · rfl
  · obtain ⟨d, ⟨-, hdec, -, -⟩, -, -, rfl⟩ := execTChar_next h
    rw [spaceBytes_framebuf_of_dec hdec]
    rfl

/-- In a frame the line buffer is empty before and after. -/
theorem exec_frame_keeps_linebuf (h : exec i s = .next s') (hi : i = .aEos ∨ ∃ b, i = .aData b) :
    spaceBytes .linebuf s' = spaceBytes .linebuf s := by
  rcases hi with rfl | ⟨b, rfl⟩
  · obtain ⟨d, hready, rfl⟩ := execAEos_next h
    rw [spaceBytes_linebuf_of_awaiting hready]
    rfl
  · obtain ⟨d, hready, ⟨-, rfl⟩ | ⟨-, g, -, rfl⟩⟩ := execAData_next h
    · obtain ⟨-, hdec, -, -⟩ := hready
      rw [spaceBytes_linebuf_of_dec hdec]
      rfl
    · rw [spaceBytes_linebuf_of_awaiting hready]
      rfl

/-- Settles O47, one frame lemma per part. -/
theorem operationsChangeOnlyTheirFields : Obligations.OperationsChangeOnlyTheirFields := by
  intro i s s' h
  refine ⟨exec_keeps_cfg h, exec_keeps_pending h, exec_keeps_results h, ?_, exec_silent h,
    fun hi => memRead_congr (exec_text_keeps_framebuf h hi), fun hi => memRead_congr (exec_frame_keeps_linebuf h hi)⟩
  rintro ⟨p, w, k, rfl⟩
  exact execUnpack_keeps_dec h

end Sys2Proof.Machine
end

section
/-! The unpacker's answer and its polarity (41_bitmap_unpacker.md R120 to R123). -/

namespace Sys2Proof.Machine

variable {s : State} {payload : List Byte} {width height : Nat} {g : PixelGrid}

/-! ### The answer and its shape -/

/-- `UNPACK` in a legal configuration returns what `unpack` returns. -/
theorem execUnpack_of_wf (hcfg : s.cfg.wf) (payload : List Byte) (width height : Nat) :
    execUnpack payload width height s = .next (s.addResult (unpack payload width height)) :=
  configured_of_wf hcfg _

theorem unpack_declares_shape (hg : unpack payload width height = .grid g) :
    g.width = width ∧ g.height = height ∧ gridWf g := by
  obtain ⟨-, rfl⟩ := unpack_eq_grid hg
  refine ⟨rfl, rfl, by simp, ?_⟩
  intro row hrow
  obtain ⟨y, -, rfl⟩ := List.mem_map.1 hrow
  exact unpackRow_length payload width y

/-- Settles O15: the shape check is the equation, and the answer is the one field that is written. -/
theorem unpackShapeErrorExactlyOnMismatch : Obligations.UnpackShapeErrorExactlyOnMismatch := by
  intro s payload width height hcfg
  have hexec : exec (.unpack payload width height) s = .next (s.addResult (unpack payload width height)) :=
    execUnpack_of_wf hcfg payload width height
  constructor
  · intro hmismatch
    rw [hexec, unpack_of_mismatch hmismatch]
    rfl
  · intro hshape
    have hgrid := unpack_of_shape hshape
    obtain ⟨hwidth, hheight, hwf⟩ := unpack_declares_shape hgrid
    refine ⟨_, hgrid, hwidth, hheight, hwf, ?_⟩
    rw [hexec, hgrid]
    rfl

/-! ### Polarity -/

/-- Every pixel of an unpacked grid is the pixel of some bit, 0 to 7, of a byte of the payload (R67). -/
theorem pixel_of_unpack (hg : unpack payload width height = .grid g) {row : List Pixel} (hrow : row ∈ g.rows)
    {p : Pixel} (hp : p ∈ row) : ∃ b ∈ payload, ∃ i ≤ 7, p = pixelOfBit (bit b i) := by
  obtain ⟨hshape, rfl⟩ := unpack_eq_grid hg
  obtain ⟨y, hy, rfl⟩ := List.mem_map.1 hrow
  obtain ⟨x, hx, rfl⟩ := List.mem_map.1 hp
  have hindex := byteIndex_lt_length hshape (List.mem_range.1 hx) (List.mem_range.1 hy)
  exact ⟨payloadByte payload (byteIndex width x y), List.mem_of_getElem? (payloadByte_of_lt hindex),
    bitIndex x, Nat.sub_le 7 _, rfl⟩

theorem bit_zero (i : Nat) : bit 0x00 i = 0 := by simp [bit]

theorem bit_ones {i : Nat} (hi : i ≤ 7) : bit 0xFF i = 1 := by
  interval_cases i <;> rfl

/-- Settles O17: a pixel is dark where its payload bit is 0 and light where it is 1, and every byte of the payload is the
constant. -/
theorem unpackPolarityIsInverted : Obligations.UnpackPolarityIsInverted := by
  intro payload width height g hg
  constructor
  · intro hzeros row hrow p hp
    obtain ⟨b, hb, i, -, rfl⟩ := pixel_of_unpack hg hrow hp
    rw [hzeros b hb, bit_zero]
    rfl
  · intro hones row hrow p hp
    obtain ⟨b, hb, i, hi, rfl⟩ := pixel_of_unpack hg hrow hp
    rw [hones b hb, bit_ones hi]
    rfl

end Sys2Proof.Machine
end

section
/-! An emitted event and what it leaves behind (42_lifecycle_and_pipeline.md R137; 60_exceptions.md R157, R158): whichever
operation emits it, the decoder is back in the reset state and the event's item is in its sink. -/

namespace Sys2Proof.Machine

variable {s s' : State} {i : Instr}

/-! ### The sinks after an event -/

theorem textSink_record_text (ev : DecodedEvent) (item : TextItem) :
    textSink (s.record ev (.text item)) = textSink s ++ [item] := List.filterMap_append

theorem imageSink_record_text (ev : DecodedEvent) (item : TextItem) :
    imageSink (s.record ev (.text item)) = imageSink s :=
  List.filterMap_append.trans (List.append_nil _)

theorem textSink_record_image (ev : DecodedEvent) (g : PixelGrid) :
    textSink (s.record ev (.image g)) = textSink s :=
  List.filterMap_append.trans (List.append_nil _)

theorem imageSink_record_image (ev : DecodedEvent) (g : PixelGrid) :
    imageSink (s.record ev (.image g)) = imageSink s ++ [g] := List.filterMap_append

theorem sinkItemOf_imageFrame_eq_some {payload : List Byte} {width height : Nat} {item : SinkItem}
    (h : sinkItemOf (.imageFrame payload width height) = some item) :
    ∃ g, unpack payload width height = .grid g ∧ item = .image g := by
  simp only [sinkItemOf] at h
  split at h
  · next g hg => cases h; exact ⟨g, hg, rfl⟩
  · cases h

/-! ### The operations that emit -/

/-- The state an emitted event leaves: the reset state, with the event and its sink item gone out. -/
def EmittedFrom (s : State) (ev : DecodedEvent) (s' : State) : Prop :=
  s.cfg.wf ∧ ∃ item, sinkItemOf ev = some item ∧ s' = (s.setDec DecoderState.reset).record ev item

/-- An operation is silent or emits one event, and then it leaves the reset state. -/
theorem exec_silent_or_emits (h : exec i s = .next s') :
    s'.events = s.events ∨ ∃ ev, EmittedFrom s ev s' := by
  cases i with
  | tLf =>
    obtain ⟨d, ⟨hcfg, -, -, -⟩, ⟨-, rfl⟩ | ⟨-, -, rfl⟩ | ⟨-, -, rfl⟩⟩ := execTLf_next h
    · exact .inr ⟨_, hcfg, _, rfl, rfl⟩
    · exact .inl rfl
    · exact .inr ⟨_, hcfg, _, rfl, rfl⟩
  | tChar b => exact .inl (exec_silent h (by simp)).1
  | tEos => exact .inl (exec_silent h (by simp)).1
  | aData b =>
    obtain ⟨d, ⟨hcfg, -, -, -⟩, ⟨-, rfl⟩ | ⟨-, g, hg, rfl⟩⟩ := execAData_next h
    · exact .inl rfl
    · exact .inr ⟨_, hcfg, .image g, by rw [sinkItemOf, hg], rfl⟩
  | aEos =>
    obtain ⟨d, ⟨hcfg, -, -, -⟩, rfl⟩ := execAEos_next h
    exact .inr ⟨_, hcfg, _, rfl, rfl⟩
  | reset => exact .inl (exec_silent h (by simp)).1
  | unpack p w k => exact .inl (exec_silent h (by simp)).1
  | disconnect => exact .inl (exec_silent h (by simp)).1

theorem exec_emits {ev : DecodedEvent} (h : exec i s = .next s') (hev : s'.events = s.events ++ [ev]) :
    EmittedFrom s ev s' := by
  rcases exec_silent_or_emits h with hsilent | ⟨ev', hemitted⟩
  · simp [hev] at hsilent
  · obtain ⟨-, item, -, rfl⟩ := id hemitted
    obtain rfl : ev' = ev := List.singleton_inj.1 (List.append_cancel_left hev)
    exact hemitted

/-! ### After a decoder error -/

/-- From the reset state every symbol has a next state, where a line may hold one byte. -/
theorem perform_symbol_of_reset {sym : Symbol} (h : Ready .textMode s DecoderState.reset)
    (hfits : lineFits s.cfg 1 = true) : ∃ s'', perform (.symbol sym) s = .next s'' := by
  rw [perform_symbol_of_ready h]
  cases sym with
  | byte b =>
    by_cases hb : b = s.cfg.lineTerminator
    · obtain ⟨s'', -, hnext, -⟩ := execTLf_accepted h
      rw [hb, selectOp_terminator]
      exact ⟨s'', hnext⟩
    · rw [selectOp_of_ne_terminator _ hb]
      exact ⟨_, execTChar_of_ready h hb hfits⟩
  | eos => exact ⟨s, onStream_of_ready h _⟩

/-- Settles O48: the error leaves the reset state, which is ready for every symbol. -/
theorem errorsLeaveDecoderUsable : Obligations.ErrorsLeaveDecoderUsable := by
  intro i s s' e h hev
  obtain ⟨hcfg, item, -, rfl⟩ := exec_emits h hev
  refine ⟨rfl, fun sym hfits => ?_⟩
  have hready : Ready .textMode ((s.setDec DecoderState.reset).record (.decodeError e) item) DecoderState.reset :=
    ready_reset hcfg rfl
  exact ⟨perform_symbol_of_ready hready sym, perform_symbol_of_reset hready hfits⟩

/-! ### In the sinks -/

/-- An event whose item is a text item, as a line and an error have one. -/
theorem exec_emits_text {ev : DecodedEvent} {item : TextItem} (h : exec i s = .next s')
    (hev : s'.events = s.events ++ [ev]) (hitem : sinkItemOf ev = some (.text item)) :
    textSink s' = textSink s ++ [item] ∧ imageSink s' = imageSink s := by
  obtain ⟨-, item', hitem', rfl⟩ := exec_emits h hev
  obtain rfl : SinkItem.text item = item' := Option.some.inj (hitem.symm.trans hitem')
  exact ⟨textSink_record_text _ _, imageSink_record_text _ _⟩

theorem exec_emits_frame {payload : List Byte} {width height : Nat} (h : exec i s = .next s')
    (hev : s'.events = s.events ++ [.imageFrame payload width height]) :
    textSink s' = textSink s ∧ ∃ g, unpack payload width height = .grid g ∧ imageSink s' = imageSink s ++ [g] := by
  obtain ⟨-, item, hitem, rfl⟩ := exec_emits h hev
  obtain ⟨g, hgrid, rfl⟩ := sinkItemOf_imageFrame_eq_some hitem
  exact ⟨textSink_record_image _ _, g, hgrid, imageSink_record_image _ _⟩

/-- Settles O49, by the kind of the event, which fixes its sink item. -/
theorem everyEventReachesItsSink : Obligations.EveryEventReachesItsSink :=
  fun _ _ _ h =>
    ⟨fun text hev => exec_emits_text h hev (sinkItemOf_logLine text),
      fun e hev => exec_emits_text h hev (sinkItemOf_decodeError e),
      fun _ _ _ hev => exec_emits_frame h hev⟩

end Sys2Proof.Machine
end

section
/-! `pack` and the round trip with `unpack` (41_bitmap_unpacker.md R126): `pack` puts every pixel at the index and bit that
`unpack` reads it from, a well-formed grid is determined by its pixels, and so is a payload of whole row bytes. -/

namespace Sys2Proof.Machine

variable {g : PixelGrid} {row : List Pixel} {n x y : Nat}

/-! ### One byte -/

theorem pixelOfBit_bitOfPixel (p : Pixel) : pixelOfBit (bitOfPixel p) = p := by
  cases p <;> rfl

theorem bitOfPixel_lt_two (p : Pixel) : bitOfPixel p < 2 := by
  cases p <;> decide

/-- Bit `7 - j` of a packed byte is the bit of its pixel `j` (R125). -/
theorem bit_byteOfPixels (p7 p6 p5 p4 p3 p2 p1 p0 : Pixel) {j : Nat} (hj : j < 8) :
    [p7, p6, p5, p4, p3, p2, p1, p0][j]?.map bitOfPixel =
      some (bit (byteOfPixels p7 p6 p5 p4 p3 p2 p1 p0) (7 - j)) := by
  have h7 := bitOfPixel_lt_two p7
  have h6 := bitOfPixel_lt_two p6
  have h5 := bitOfPixel_lt_two p5
  have h4 := bitOfPixel_lt_two p4
  have h3 := bitOfPixel_lt_two p3
  have h2 := bitOfPixel_lt_two p2
  have h1 := bitOfPixel_lt_two p1
  have h0 := bitOfPixel_lt_two p0
  simp only [bit, byteOfPixels, BitVec.toNat_ofNat]
  interval_cases j <;> simp only [List.getElem?_cons_zero, List.getElem?_cons_succ, Option.map_some,
    Option.some.injEq] <;> omega

theorem getElem?_of_byteOfPixels (p7 p6 p5 p4 p3 p2 p1 p0 : Pixel) {j : Nat} (hj : j < 8) :
    [p7, p6, p5, p4, p3, p2, p1, p0][j]? =
      some (pixelOfBit (bit (byteOfPixels p7 p6 p5 p4 p3 p2 p1 p0) (7 - j))) := by
  obtain ⟨p, hp, hbit⟩ := Option.map_eq_some_iff.1 (bit_byteOfPixels p7 p6 p5 p4 p3 p2 p1 p0 hj)
  rw [hp, ← hbit, pixelOfBit_bitOfPixel]

/-! ### One row -/

theorem exists_eight_of_length (h : row.length = 8 * (n + 1)) :
    ∃ p7 p6 p5 p4 p3 p2 p1 p0 rest, row = p7 :: p6 :: p5 :: p4 :: p3 :: p2 :: p1 :: p0 :: rest ∧
      rest.length = 8 * n := by
  match row, h with
  | p7 :: p6 :: p5 :: p4 :: p3 :: p2 :: p1 :: p0 :: rest, h =>
    exact ⟨p7, p6, p5, p4, p3, p2, p1, p0, rest, rfl, by simp only [List.length_cons] at h; omega⟩

theorem packRow_length (h : row.length = 8 * n) : (packRow row).length = n := by
  induction n generalizing row with
  | zero => rw [List.length_eq_zero_iff.1 h]; rfl
  | succ n ih =>
    obtain ⟨p7, p6, p5, p4, p3, p2, p1, p0, rest, rfl, hrest⟩ := exists_eight_of_length h
    rw [packRow, List.length_cons, ih hrest]

/-- Byte `k` of a packed row holds the eight pixels from column `8k`, the first in bit 7. -/
theorem packRow_places_pixel (h : row.length = 8 * n) {k j : Nat} (hk : k < n) (hj : j < 8) :
    ∃ v, (packRow row)[k]? = some v ∧ row[8 * k + j]? = some (pixelOfBit (bit v (7 - j))) := by
  induction n generalizing row k with
  | zero => omega
  | succ n ih =>
    obtain ⟨p7, p6, p5, p4, p3, p2, p1, p0, rest, rfl, hrest⟩ := exists_eight_of_length h
    cases k with
    | zero =>
      refine ⟨_, rfl, ?_⟩
      rw [← getElem?_of_byteOfPixels p7 p6 p5 p4 p3 p2 p1 p0 hj, Nat.mul_zero, Nat.zero_add]
      exact List.getElem?_append_left (l₁ := [p7, p6, p5, p4, p3, p2, p1, p0]) hj
    | succ k =>
      obtain ⟨v, hv, hpixel⟩ := ih hrest (by omega : k < n)
      refine ⟨v, hv, ?_⟩
      rw [← hpixel, show 8 * (k + 1) + j = 8 * k + j + 8 by omega]
      rfl

/-! ### All rows -/

theorem length_flatMap_packRow {rows : List (List Pixel)} (h : ∀ row ∈ rows, row.length = 8 * n) :
    (rows.flatMap packRow).length = rows.length * n := by
  induction rows with
  | nil => exact (Nat.zero_mul n).symm
  | cons row rows ih =>
    obtain ⟨hrow, hrows⟩ := List.forall_mem_cons.1 h
    rw [List.flatMap_cons, List.length_append, packRow_length hrow, ih hrows, List.length_cons, Nat.succ_mul,
      Nat.add_comm]

/-- Rows of `n` bytes each stand one behind the other. -/
theorem getElem?_flatMap_packRow {rows : List (List Pixel)} (h : ∀ row ∈ rows, row.length = 8 * n)
    (hy : rows[y]? = some row) {k : Nat} (hk : k < n) :
    (rows.flatMap packRow)[y * n + k]? = (packRow row)[k]? := by
  induction rows generalizing y with
  | nil => cases hy
  | cons first rows ih =>
    obtain ⟨hfirst, hrows⟩ := List.forall_mem_cons.1 h
    have hlen := packRow_length hfirst
    rw [List.flatMap_cons]
    cases y with
    | zero =>
      obtain rfl : first = row := Option.some.inj hy
      rw [Nat.zero_mul, Nat.zero_add, List.getElem?_append_left (by rw [hlen]; exact hk)]
    | succ y =>
      rw [Nat.succ_mul, Nat.add_right_comm, List.getElem?_append_right (by rw [hlen]; exact Nat.le_add_left ..), hlen,
        Nat.add_sub_cancel]
      exact ih hrows hy

theorem row_width (hg : gridWf g) (hn : g.width = 8 * n) : ∀ row ∈ g.rows, row.length = 8 * n := by
  obtain ⟨-, hrows⟩ := hg
  exact fun row hrow => (hrows row hrow).trans hn

/-- A packed grid passes the unpacker's shape check. -/
theorem pack_shape (hg : gridWf g) (hw : g.width % 8 = 0) : 8 * (pack g).length = g.width * g.height := by
  obtain ⟨n, hn⟩ := Nat.dvd_of_mod_eq_zero hw
  obtain ⟨hheight, -⟩ := id hg
  rw [pack, length_flatMap_packRow (row_width hg hn), hn, hheight, Nat.mul_assoc, Nat.mul_comm n]

/-- Settles O19: row `y` starts at byte `y * (width / 8)`, and its byte `x / 8` holds column `x`. -/
theorem packPlacesEveryPixel : Obligations.PackPlacesEveryPixel := by
  intro g x y hg hw hx hy
  obtain ⟨n, hn⟩ := Nat.dvd_of_mod_eq_zero hw
  obtain ⟨hheight, hrows⟩ := id hg
  obtain ⟨row, hrow⟩ : ∃ row, g.rows[y]? = some row := ⟨_, List.getElem?_eq_getElem (by omega)⟩
  have hlen : row.length = 8 * n := row_width hg hn row (List.mem_of_getElem? hrow)
  have hk : x / 8 < n := by omega
  obtain ⟨v, hv, hpixel⟩ := packRow_places_pixel hlen hk (Nat.mod_lt x (by decide))
  have hindex : (y * g.width + x) / 8 = y * n + x / 8 := by
    rw [hn, Nat.mul_left_comm]
    omega
  refine ⟨v, ?_, ?_⟩
  · rw [hindex, pack, getElem?_flatMap_packRow (row_width hg hn) hrow hk, hv]
  · rw [Nat.div_add_mod] at hpixel
    rw [gridPixel, hrow]
    exact hpixel

/-! ### The round trip -/

/-- A well-formed grid is determined by its shape and its pixels. -/
theorem grid_ext {g' : PixelGrid} (hg : gridWf g) (hg' : gridWf g') (hwidth : g'.width = g.width)
    (hheight : g'.height = g.height) (h : ∀ x y, x < g.width → y < g.height → gridPixel g' x y = gridPixel g x y) :
    g' = g := by
  obtain ⟨w, k, rows⟩ := g
  obtain ⟨w', k', rows'⟩ := g'
  obtain ⟨hlen, hrows⟩ := hg
  obtain ⟨hlen', hrows'⟩ := hg'
  dsimp only at hwidth hheight hlen hrows hlen' hrows' h
  subst hwidth hheight
  congr 1
  refine List.ext_getElem (hlen'.trans hlen.symm) fun y hy' hy => ?_
  have hw := hrows _ (List.getElem_mem hy)
  have hw' := hrows' _ (List.getElem_mem hy')
  refine List.ext_getElem (hw'.trans hw.symm) fun x hx' hx => ?_
  have hpixel := h x y (hw ▸ hx) (hlen ▸ hy)
  simpa [gridPixel, hy, hy', hx, hx'] using hpixel

/-- Settles O20: the unpacked grid has the pixels that `pack` placed, so it is the grid. -/
theorem unpackAfterPackIsIdentity : Obligations.UnpackAfterPackIsIdentity := by
  intro g hg hw
  have hunpack := unpack_of_shape (pack_shape hg hw)
  obtain ⟨hwidth, hheight, hg'⟩ := unpack_declares_shape hunpack
  rw [hunpack]
  refine congrArg UnpackResult.grid (grid_ext hg hg' hwidth hheight fun x y hx hy => ?_)
  obtain ⟨v, hv, hpixel⟩ := packPlacesEveryPixel g x y hg hw hx hy
  obtain ⟨v', hv', hpixel'⟩ := unpackPixelIsIndexedBit _ _ _ x y _ hunpack hx hy
  obtain rfl : v = v' := Option.some.inj (hv.symm.trans hv')
  exact hpixel'.trans hpixel.symm

theorem eq_of_pixel_eq : ∀ {p q : Bool},
    (if p then Pixel.light else Pixel.dark) = (if q then Pixel.light else Pixel.dark) → p = q := by
  decide

/-- For a width of whole bytes, two payloads with the same grid are equal: every bit of every byte is a pixel (R125). -/
theorem unpack_injective {a b : List Byte} {width height : Nat} (hw : width % 8 = 0)
    (ha : unpack a width height = .grid g) (hb : unpack b width height = .grid g) : a = b := by
  obtain ⟨n, rfl⟩ := Nat.dvd_of_mod_eq_zero hw
  obtain ⟨hshape, -⟩ := unpack_eq_grid ha
  obtain ⟨hshape', -⟩ := unpack_eq_grid hb
  refine List.ext_getElem (by omega) fun i hi hi' => BitVec.eq_of_getLsbD_eq fun bitNo hbit => ?_
  have hlen : i < height * n := by rw [Nat.mul_assoc] at hshape; rw [Nat.mul_comm]; omega
  have hn : 0 < n := Nat.pos_of_ne_zero fun h0 => by rw [h0] at hlen; omega
  have hrow : i / n < height := Nat.div_lt_of_lt_mul (by rwa [Nat.mul_comm])
  have hbyte := Nat.div_add_mod' i n
  obtain ⟨v, hv, hpixel⟩ := unpackScattersRowBytes a n height (i / n) (i % n) (7 - bitNo) g ha hrow
    (Nat.mod_lt i hn) (by omega)
  obtain ⟨v', hv', hpixel'⟩ := unpackScattersRowBytes b n height (i / n) (i % n) (7 - bitNo) g hb hrow
    (Nat.mod_lt i hn) (by omega)
  rw [hbyte, List.getElem?_eq_getElem ‹_›] at hv hv'
  obtain rfl := Option.some.inj hv
  obtain rfl := Option.some.inj hv'
  rw [show 7 - (7 - bitNo) = bitNo by omega] at hpixel hpixel'
  exact eq_of_pixel_eq (Option.some.inj (hpixel.symm.trans hpixel'))

/-- Settles O21: `pack` of the grid unpacks to the grid (O20), as the payload does. -/
theorem packAfterUnpackIsIdentity : Obligations.PackAfterUnpackIsIdentity := by
  intro payload width height g hw hg
  obtain ⟨rfl, rfl, hwf⟩ := unpack_declares_shape hg
  exact unpack_injective hw (unpackAfterPackIsIdentity g hwf hw) hg

end Sys2Proof.Machine
end

section
/-! The machine's invariant along a step (10_state.md R25; 30_encoding.md R70; 42_lifecycle_and_pipeline.md R137). One lemma
per update of the state says when it keeps the invariant; each operation is one of those updates. -/

namespace Sys2Proof.Machine

variable {s s' : State} {d : DecoderState} {i : Instr}

/-! ### Updates that keep the invariant -/

theorem machineInv_setPending (h : MachineInv s) (inputs : List Input) : MachineInv (s.setPending inputs) := h

theorem machineInv_setDec (h : MachineInv s) (hd : d.wf s.cfg) : MachineInv (s.setDec d) := by
  obtain ⟨hcfg, -, hevents, hsinks, hresults⟩ := h
  refine ⟨hcfg, fun d' hd' => ?_, hevents, hsinks, hresults⟩
  obtain rfl : d = d' := Option.some.inj hd'
  exact hd

theorem machineInv_dropDec (h : MachineInv s) : MachineInv s.dropDec := by
  obtain ⟨hcfg, -, hevents, hsinks, hresults⟩ := h
  exact ⟨hcfg, nofun, hevents, hsinks, hresults⟩

theorem machineInv_record {ev : DecodedEvent} {item : SinkItem} (h : MachineInv s) (hev : eventWf s.cfg ev)
    (hitem : sinkItemOf ev = some item) : MachineInv (s.record ev item) := by
  obtain ⟨hcfg, hdec, hevents, hsinks, hresults⟩ := h
  refine ⟨hcfg, hdec, ?_, ?_, hresults⟩
  · exact List.forall_mem_append.2 ⟨hevents, List.forall_mem_singleton.2 hev⟩
  · rw [State.record_events, State.record_sinks, List.map_append, List.map_append, hsinks, List.map_singleton,
      List.map_singleton, hitem]

theorem machineInv_addResult_unpack (h : MachineInv s) (payload : List Byte) (width height : Nat) :
    MachineInv (s.addResult (unpack payload width height)) := by
  obtain ⟨hcfg, hdec, hevents, hsinks, hresults⟩ := h
  refine ⟨hcfg, hdec, hevents, hsinks, fun g hg => ?_⟩
  rcases List.mem_append.1 hg with hold | hnew
  · exact hresults g hold
  · obtain ⟨-, -, hwf⟩ := unpack_declares_shape (List.mem_singleton.1 hnew).symm
    exact hwf

/-- What every event leaves: the reset state, with the event and its item gone out. -/
theorem machineInv_reset_record {ev : DecodedEvent} {item : SinkItem} (h : MachineInv s) (hev : eventWf s.cfg ev)
    (hitem : sinkItemOf ev = some item) : MachineInv ((s.setDec DecoderState.reset).record ev item) :=
  machineInv_record (machineInv_setDec h (reset_wf s.cfg)) hev hitem

/-! ### The events are well-formed (30_encoding.md R70) -/

theorem eventWf_logLine (h : Ready .textMode s d) (hv : utf8Valid d.linebuf = true)
    (hm : isMarker s.cfg d.linebuf = false) : eventWf s.cfg (.logLine d.linebuf) := by
  obtain ⟨-, -, hwf, -⟩ := h
  obtain ⟨-, -, hterm, -⟩ := DecoderState.wf_iff.1 hwf
  exact ⟨hv, hterm, hm⟩

/-- An invalid segment has a byte, for the empty one is valid. -/
theorem eventWf_invalidEncoding (h : Ready .textMode s d) (hv : utf8Valid d.linebuf = false) :
    eventWf s.cfg (.decodeError (.invalidEncoding d.linebuf)) := by
  obtain ⟨-, -, hwf, -⟩ := h
  obtain ⟨-, -, hterm, -⟩ := DecoderState.wf_iff.1 hwf
  refine ⟨hv, hterm, List.length_pos_of_ne_nil fun hempty => ?_⟩
  rw [hempty] at hv
  cases hv

theorem eventWf_imageFrame (h : Ready .awaitingImageBytes s d) (hlast : d.remaining = 1) (b : Byte) :
    eventWf s.cfg (.imageFrame (d.framebuf ++ [b]) s.cfg.width s.cfg.height) := by
  obtain ⟨-, -, hwf, hmode⟩ := h
  obtain ⟨-, hle, -, hlen⟩ := (DecoderState.wf_iff.1 hwf).2.1 hmode
  refine ⟨?_, rfl, rfl⟩
  rw [List.length_append, hlen, List.length_singleton]
  omega

theorem eventWf_truncatedFrame (h : Ready .awaitingImageBytes s d) :
    eventWf s.cfg (.decodeError (.truncatedFrame (s.cfg.frameBytes - d.remaining))) := by
  obtain ⟨-, -, hwf, hmode⟩ := h
  obtain ⟨hpos, -⟩ := (DecoderState.wf_iff.1 hwf).2.1 hmode
  exact Nat.sub_le_sub_left hpos _

/-! ### Operations, inputs and steps -/

theorem exec_keeps_machineInv (hinv : MachineInv s) (h : exec i s = .next s') : MachineInv s' := by
  cases i with
  | tLf =>
    obtain ⟨d, hready, ⟨hv, rfl⟩ | ⟨-, -, rfl⟩ | ⟨hv, hm, rfl⟩⟩ := execTLf_next h
    · exact machineInv_reset_record hinv (eventWf_invalidEncoding hready hv) rfl
    · exact machineInv_setDec hinv (startFrame_wf hinv.1)
    · exact machineInv_reset_record hinv (eventWf_logLine hready hv hm) rfl
  | tChar b =>
    obtain ⟨d, ⟨-, -, hwf, hmode⟩, hb, hfits, rfl⟩ := execTChar_next h
    exact machineInv_setDec hinv (pushLine_wf hwf hmode hb hfits)
  | tEos => obtain ⟨d, -, rfl⟩ := execTEos_next h; exact hinv
  | aData b =>
    obtain ⟨d, hready, ⟨hmore, rfl⟩ | ⟨hlast, g, hg, rfl⟩⟩ := execAData_next h
    · obtain ⟨-, -, hwf, hmode⟩ := hready
      exact machineInv_setDec hinv (pushFrame_wf hwf hmode b hmore)
    · exact machineInv_reset_record hinv (eventWf_imageFrame hready hlast b) (by rw [sinkItemOf, hg])
  | aEos =>
    obtain ⟨d, hready, rfl⟩ := execAEos_next h
    exact machineInv_reset_record hinv (eventWf_truncatedFrame hready) rfl
  | reset => obtain ⟨-, rfl⟩ := execReset_next h; exact machineInv_setDec hinv (reset_wf s.cfg)
  | unpack payload width height =>
    obtain ⟨-, rfl⟩ := execUnpack_next h
    exact machineInv_addResult_unpack hinv payload width height
  | disconnect => obtain ⟨-, rfl⟩ := execDisconnect_next h; exact machineInv_dropDec hinv

/-- An input that gives a next state ran one operation. -/
theorem perform_eq_next {input : Input} (h : perform input s = .next s') : ∃ i, exec i s = .next s' := by
  unfold perform at h
  split at h
  · exact ⟨_, h⟩
  · cases h

/-- Settles O32: the empty queue is the first case of `step`. -/
theorem idleStepHoldsState : Obligations.IdleStepHoldsState := by
  intro s h
  simp only [step, h]

/-- Settles O44: a step is idle, or runs one operation on the state with its oldest input taken off the queue. -/
theorem stepKeepsMachineInvariant : Obligations.StepKeepsMachineInvariant := by
  intro s s' hinv h
  cases hpending : s.pending with
  | nil =>
    rw [idleStepHoldsState s hpending] at h
    cases h
    exact hinv
  | cons input rest =>
    rw [step_of_pending hpending] at h
    obtain ⟨i, hexec⟩ := perform_eq_next h
    exact exec_keeps_machineInv (machineInv_setPending hinv rest) hexec

theorem thisHardware_wf : Config.thisHardware.wf := by decide

/-- Settles O45: this hardware's configuration is legal (R8), the decoder's reset state is well-formed in every
configuration, and the histories are empty. -/
theorem resetHasMachineInvariant : Obligations.ResetHasMachineInvariant := by
  refine ⟨thisHardware_wf, fun d hd => ?_, nofun, rfl, nofun⟩
  obtain rfl : DecoderState.reset = d := Option.some.inj hd
  exact reset_wf _

end Sys2Proof.Machine
end

section
/-! The outcomes of `T.LF` and of the operations that hold or replace the decoder's state (40_decoder_symbols.md R93 to R96;
42_lifecycle_and_pipeline.md R135, R136), and what refuses or faults (93_implementation_defined.md U1, U3, U4, U6). -/

namespace Sys2Proof.Machine

variable {s : State} {d : DecoderState}

/-! ### Operations in TextMode -/

/-- Settles O4: the error is taken from the state as it is, and taking it resets the decoder. -/
theorem tLfReportsInvalidSegment : Obligations.TLfReportsInvalidSegment :=
  fun s _ h hv => (execTLf_of_invalid h hv).trans (takeDecodeError_eq _ s)

/-- Settles O6: the line's text item is the one item that goes out. -/
theorem tLfEmitsLogLine : Obligations.TLfEmitsLogLine := by
  intro s d h hv hm
  refine ⟨[.text (.text d.linebuf)], ?_⟩
  change execTLf s = .next ((s.setDec (clearLine d)).record (.logLine d.linebuf) (.text (.text d.linebuf)))
  rw [execTLf_of_logLine h hv hm, emit_logLine, clearLine_eq_reset h]

theorem execTEos_of_ready (h : Ready .textMode s d) : execTEos s = .next s := onStream_of_ready h _

/-- Settles O7. -/
theorem tEosHoldsState : Obligations.TEosHoldsState := fun _ _ h => execTEos_of_ready h

/-! ### RESET and DISCONNECT -/

theorem execReset_of_wf (hcfg : s.cfg.wf) : execReset s = .next (s.setDec DecoderState.reset) :=
  configured_of_wf hcfg _

theorem execDisconnect_of_wf (hcfg : s.cfg.wf) : execDisconnect s = .next s.dropDec := configured_of_wf hcfg _

/-- Settles O11: the check asks nothing of the decoder's state. -/
theorem resetGivesResetValues : Obligations.ResetGivesResetValues := fun _ hcfg => execReset_of_wf hcfg

/-- Settles O12: the check asks nothing of the decoder's state. -/
theorem disconnectDiscardsState : Obligations.DisconnectDiscardsState := fun _ hcfg => execDisconnect_of_wf hcfg

/-- Settles O13: both operations make the same check, and `RESET` overwrites what `DISCONNECT` left. -/
theorem disconnectThenResetIsReset : Obligations.DisconnectThenResetIsReset := by
  intro s
  change andThen (execDisconnect s) execReset = execReset s
  by_cases hcfg : s.cfg.wf
  · rw [execDisconnect_of_wf hcfg, andThen_next, execReset_of_wf hcfg, execReset_of_wf (s := s.dropDec) hcfg]
    rfl
  · rw [execDisconnect, execReset, configured_of_not_wf hcfg, configured_of_not_wf hcfg, andThen_refused]

/-- Settles O14: both sides are the same literal. -/
theorem resetStateIsAsSpecified : Obligations.ResetStateIsAsSpecified := rfl

/-! ### Refusals -/

/-- Settles O52: a `DISCONNECT` leaves no decoder state either. -/
theorem symbolWithoutStateIsRefused : Obligations.SymbolWithoutStateIsRefused := by
  intro s sym hcfg
  refine ⟨fun hnone => perform_symbol_of_none hnone sym, ?_⟩
  rw [perform_disconnect, execDisconnect_of_wf hcfg, andThen_next]
  exact perform_symbol_of_none rfl sym

/-- Every operation checks the configuration first. -/
theorem exec_of_not_wf (hcfg : ¬ s.cfg.wf) (i : Instr) : exec i s = .refused .badConfiguration := by
  cases i with
  | tLf => exact configured_of_not_wf hcfg _
  | tChar b => exact configured_of_not_wf hcfg _
  | tEos => exact configured_of_not_wf hcfg _
  | aData b => exact configured_of_not_wf hcfg _
  | aEos => exact configured_of_not_wf hcfg _
  | reset => exact configured_of_not_wf hcfg _
  | unpack payload width height => exact configured_of_not_wf hcfg _
  | disconnect => exact configured_of_not_wf hcfg _

theorem onStream_of_illFormed (hcfg : s.cfg.wf) (hdec : s.dec = some d) (hwf : ¬ d.wf s.cfg) (m : Mode)
    (act : DecoderState → Result) : onStream m s act = .refused .illFormedState := by
  simp only [onStream, configured_of_wf hcfg, hdec, if_neg hwf]

/-- Every stream operation checks the decoder's state next. -/
theorem exec_of_illFormed (hcfg : s.cfg.wf) (hdec : s.dec = some d) (hwf : ¬ d.wf s.cfg) {i : Instr}
    (hi : isStreamOp i = true) : exec i s = .refused .illFormedState := by
  cases i with
  | tLf => exact onStream_of_illFormed hcfg hdec hwf _ _
  | tChar b => exact onStream_of_illFormed hcfg hdec hwf _ _
  | tEos => exact onStream_of_illFormed hcfg hdec hwf _ _
  | aData b => exact onStream_of_illFormed hcfg hdec hwf _ _
  | aEos => exact onStream_of_illFormed hcfg hdec hwf _ _
  | reset => cases hi
  | unpack payload width height => cases hi
  | disconnect => cases hi

/-- Settles O53. -/
theorem illFormedMachineIsRefused : Obligations.IllFormedMachineIsRefused :=
  fun i _ => ⟨fun hcfg => exec_of_not_wf hcfg i, fun _ hcfg hdec hwf hi => exec_of_illFormed hcfg hdec hwf hi⟩

theorem lineFits_of_cap {c : Config} {cap : Nat} (h : c.lineBufCap = some cap) (n : Nat) :
    lineFits c n = decide (n ≤ cap) := by
  rw [lineFits, h]

/-- Settles O54: a full line has no room for one byte more. -/
theorem lineBeyondCapacityIsRefused : Obligations.LineBeyondCapacityIsRefused := by
  intro s d b cap h hb hcap hlen
  have hfull : ¬ lineFits s.cfg (d.linebuf.length + 1) = true := by
    rw [lineFits_of_cap hcap, hlen, decide_eq_true_eq]
    exact Nat.not_succ_le_self cap
  refine (onStream_of_ready h _).trans ?_
  rw [if_neg hb, if_neg hfull]

/-! ### Faults -/

theorem configured_next_ne_fault (s' : State) (why : Fault) : configured s (.next s') ≠ .fault why := by
  unfold configured
  split <;> nofun

/-- The checks refuse, so a stream operation can only fault in a state ready for it. -/
theorem onStream_ne_fault {m : Mode} {act : DecoderState → Result} {why : Fault}
    (hact : ∀ d, Ready m s d → onStream m s act ≠ .fault why) : onStream m s act ≠ .fault why := by
  intro h
  rcases onStream_cases m s act with ⟨-, hr⟩ | ⟨-, -, hr⟩ | ⟨d, -, -, -, hr⟩ | ⟨d, -, -, -, -, hr⟩ | ⟨d, hready, -⟩
  · cases hr.symm.trans h
  · cases hr.symm.trans h
  · cases hr.symm.trans h
  · cases hr.symm.trans h
  · exact hact d hready h

theorem ne_fault_of_accepted {r : Result} (h : AcceptedFrom s r) (why : Fault) : r ≠ .fault why := by
  obtain ⟨s', -, rfl, -⟩ := h
  nofun

theorem execTChar_ne_fault (b : Byte) (s : State) (why : Fault) : execTChar b s ≠ .fault why :=
  onStream_ne_fault fun d h => by
    rw [onStream_of_ready h]
    split
    · nofun
    · split <;> nofun

/-- Settles O50, by the operation: from a state ready for it `A.DATA` has a next state, the completed frame being of the
unpacker's shape. -/
theorem noOperationFaults : Obligations.NoOperationFaults := by
  intro i s why
  cases i with
  | tLf => exact onStream_ne_fault fun _ h => ne_fault_of_accepted (execTLf_accepted h) why
  | tChar b => exact execTChar_ne_fault b s why
  | tEos => exact onStream_ne_fault fun _ h => by rw [onStream_of_ready h]; nofun
  | aData b => exact onStream_ne_fault fun _ h => ne_fault_of_accepted (execAData_accepted h b) why
  | aEos => exact onStream_ne_fault fun _ h => by rw [onStream_of_ready h, takeDecodeError_eq]; nofun
  | reset => exact configured_next_ne_fault _ why
  | unpack payload width height => exact configured_next_ne_fault _ why
  | disconnect => exact configured_next_ne_fault _ why

end Sys2Proof.Machine
end

section
/-! What each symbol does to the mode, the count and the events (40_decoder_symbols.md R102, R106), and the host's run of
the machine. -/

namespace Sys2Proof.Machine

variable {s s' : State} {d : DecoderState}

/-! ### The transition table -/

section Entries

variable {c : Config}

theorem transition_char (hm : d.mode = .textMode) {b : Byte} (hb : b ≠ c.lineTerminator) :
    transition c d (.byte b) = (.textMode, 0, none) := by
  simp only [transition, hm, if_pos hb]

theorem transition_terminator (hm : d.mode = .textMode) :
    transition c d (.byte c.lineTerminator) =
      if utf8Valid d.linebuf = false then (.textMode, 0, some (.decodeError (.invalidEncoding d.linebuf)))
      else if isMarker c d.linebuf then (.awaitingImageBytes, c.frameBytes, none)
      else (.textMode, 0, some (.logLine d.linebuf)) := by
  simp only [transition, hm]
  exact if_neg (not_not_intro rfl)

theorem transition_text_eos (hm : d.mode = .textMode) : transition c d .eos = (.textMode, 0, none) := by
  simp only [transition, hm]

theorem transition_data_of_two_le (hm : d.mode = .awaitingImageBytes) (b : Byte) (hr : 2 ≤ d.remaining) :
    transition c d (.byte b) = (.awaitingImageBytes, d.remaining - 1, none) := by
  simp only [transition, hm, if_pos hr]

theorem transition_data_of_one (hm : d.mode = .awaitingImageBytes) (b : Byte) (hr : d.remaining = 1) :
    transition c d (.byte b) = (.textMode, 0, some (.imageFrame (d.framebuf ++ [b]) c.width c.height)) := by
  simp only [transition, hm, hr]
  rfl

theorem transition_frame_eos (hm : d.mode = .awaitingImageBytes) :
    transition c d .eos = (.textMode, 0, some (.decodeError (.truncatedFrame (c.frameBytes - d.remaining)))) := by
  simp only [transition, hm]

end Entries

/-- A next state with the mode, the count and the event that an entry of the transition table gives. -/
def FollowsEntry (s : State) (r : Result) (entry : Mode × Nat × Option DecodedEvent) : Prop :=
  ∃ (s' : State) (d' : DecoderState), r = .next s' ∧ s'.dec = some d' ∧
    (d'.mode, d'.remaining) = (entry.1, entry.2.1) ∧ s'.events = s.events ++ entry.2.2.toList

theorem followsEntry_of_silent {r : Result} {d' : DecoderState} {m : Mode} {n : Nat} (h : r = .next (s.setDec d'))
    (hm : d'.mode = m) (hn : d'.remaining = n) : FollowsEntry s r (m, n, none) :=
  ⟨_, d', h, rfl, Prod.ext hm hn, (List.append_nil _).symm⟩

theorem followsEntry_of_event {r : Result} {ev : DecodedEvent} {item : SinkItem}
    (h : r = .next ((s.setDec DecoderState.reset).record ev item)) :
    FollowsEntry s r (.textMode, 0, some ev) :=
  ⟨_, DecoderState.reset, h, rfl, rfl, rfl⟩

theorem execTLf_followsEntry (h : Ready .textMode s d) :
    FollowsEntry s (execTLf s) (transition s.cfg d (.byte s.cfg.lineTerminator)) := by
  obtain ⟨-, -, -, hmode⟩ := id h
  rw [transition_terminator hmode]
  cases hv : utf8Valid d.linebuf with
  | false =>
    rw [if_pos rfl]
    exact followsEntry_of_event ((execTLf_of_invalid h hv).trans (takeDecodeError_eq _ s))
  | true =>
    rw [if_neg nofun]
    cases hm : isMarker s.cfg d.linebuf with
    | true => exact followsEntry_of_silent (execTLf_of_marker h hv hm) rfl rfl
    | false => exact followsEntry_of_event ((execTLf_of_logLine h hv hm).trans (emit_logLine _ _))

theorem text_symbol_followsEntry (h : Ready .textMode s d) (hfits : lineFits s.cfg (d.linebuf.length + 1) = true)
    (sym : Symbol) : FollowsEntry s (perform (.symbol sym) s) (transition s.cfg d sym) := by
  obtain ⟨-, hdec, hwf, hmode⟩ := id h
  obtain ⟨hcount, -⟩ := (DecoderState.wf_iff.1 hwf).1 hmode
  cases sym with
  | byte b =>
    by_cases hb : b = s.cfg.lineTerminator
    · rw [hb, perform_terminator_of_ready h]
      exact execTLf_followsEntry h
    · rw [transition_char hmode hb]
      exact followsEntry_of_silent (perform_char_of_ready h hb hfits) hmode hcount
  | eos =>
    have hexec : execTEos s = .next (s.setDec d) := by rw [execTEos_of_ready h, setDec_eq_self hdec]
    rw [transition_text_eos hmode, perform_symbol_of_ready h]
    exact followsEntry_of_silent hexec hmode hcount

theorem frame_symbol_followsEntry (h : Ready .awaitingImageBytes s d) (sym : Symbol) :
    FollowsEntry s (perform (.symbol sym) s) (transition s.cfg d sym) := by
  obtain ⟨-, -, hwf, hmode⟩ := id h
  obtain ⟨hpos, -⟩ := (DecoderState.wf_iff.1 hwf).2.1 hmode
  cases sym with
  | byte b =>
    rw [perform_data_of_ready h]
    rcases Nat.eq_or_lt_of_le hpos with hlast | hmore
    · obtain ⟨g, -, hexec⟩ := execAData_of_one h b hlast.symm
      rw [transition_data_of_one hmode b hlast.symm]
      exact followsEntry_of_event hexec
    · rw [transition_data_of_two_le hmode b hmore]
      exact followsEntry_of_silent (execAData_of_two_le h b hmore) hmode rfl
  | eos =>
    rw [perform_symbol_of_ready h, transition_frame_eos hmode]
    exact followsEntry_of_event (execAEos_of_ready h)

/-- Settles O35, by the mode. -/
theorem symbolsFollowTransitionTable : Obligations.SymbolsFollowTransitionTable := by
  intro s d sym hcfg hdec hwf hfits
  cases hmode : d.mode with
  | textMode => exact text_symbol_followsEntry ⟨hcfg, hdec, hwf, hmode⟩ hfits sym
  | awaitingImageBytes => exact frame_symbol_followsEntry ⟨hcfg, hdec, hwf, hmode⟩ sym

/-! ### The symbols that emit -/

/-- Settles O36, by the mode and the symbol: the other operations are silent. -/
theorem onlyThreeSymbolsEmit : Obligations.OnlyThreeSymbolsEmit := by
  intro s s' d sym hdec h hemits
  rw [perform_symbol_eq_selectOp hdec] at h
  cases hmode : d.mode with
  | textMode =>
    rw [hmode] at h
    cases sym with
    | byte b =>
      by_cases hb : b = s.cfg.lineTerminator
      · exact .inl ⟨rfl, by rw [hb]⟩
      · rw [selectOp_of_ne_terminator _ hb] at h
        exact absurd (exec_silent h (by simp)).1 hemits
    | eos => exact absurd (exec_silent (i := .tEos) h (by simp)).1 hemits
  | awaitingImageBytes =>
    rw [hmode] at h
    cases sym with
    | byte b =>
      obtain ⟨d', ⟨-, hdec', -, -⟩, ⟨-, rfl⟩ | ⟨hlast, -⟩⟩ := execAData_next h
      · exact absurd rfl hemits
      · obtain rfl : d = d' := Option.some.inj (hdec.symm.trans hdec')
        exact .inr (.inl ⟨rfl, hlast, b, rfl⟩)
    | eos => exact .inr (.inr ⟨rfl, rfl⟩)

/-! ### The host's run -/

/-- An input is performed whatever is queued behind it, and the queue is carried along. -/
theorem perform_setPending (input : Input) (s : State) (queue : List Input) :
    perform input (s.setPending queue) = mapNext (fun t => t.setPending queue) (perform input s) := by
  have hhere := perform_afterHistory s (bare s) input
  have hqueued := perform_afterHistory (s.setPending queue) (bare (s.setPending queue)) input
  rw [afterHistory_bare] at hhere hqueued
  rw [hqueued, hhere, mapNext, mapNext, andThen_mapNext]
  rfl

/-- Settles O39, by induction on the inputs: the step that performs one leaves the others queued. -/
theorem steppingRunsQueueInOrder : Obligations.SteppingRunsQueueInOrder := by
  intro inputs rest
  induction inputs with
  | nil => exact fun _ => rfl
  | cons input inputs ih =>
    intro s
    have hstep : step (s.setPending (input :: (inputs ++ rest))) = perform input (s.setPending (inputs ++ rest)) :=
      step_of_pending rfl
    refine (core_run_succ _ _).trans ?_
    rw [List.cons_append, hstep, performAll, perform_setPending input s (inputs ++ rest), perform_setPending input s rest,
      andThen_mapNext _ _ (performAll inputs)]
    exact (andThen_mapNext _ _ _).trans (congrArg (andThen (perform input s)) (funext ih))

/-! ### Symbols through their words -/

/-- A word with bit 8 set has the number 1 in its `eos` field (30_encoding.md R60). -/
theorem symbolOfWord_of_eos {w : SymbolWord} (h : 2 ^ 8 ≤ w.toNat) : symbolOfWord w = .eos := by
  have hlt := w.isLt
  have heos : bitField w.toNat 8 8 ≠ 0 := by simp only [bitField]; omega
  rw [symbolOfWord, if_neg heos]

/-- Settles O29. -/
theorem symbolWordCarriesSymbol : Obligations.SymbolWordCarriesSymbol :=
  ⟨symbolOfWord_toWord, fun _ => symbolOfWord_of_eos⟩

/-! ### The counter's width -/

theorem ceilLog2_succ {n : Nat} (h : 1 ≤ n) : ceilLog2 (n + 1) = n.log2 + 1 := by
  rw [ceilLog2, if_neg (by omega), Nat.add_sub_cancel]

/-- The count never exceeds a frame, and is 0 outside of one (10_state.md R25). -/
theorem remaining_le_frameBytes {c : Config} (h : d.wf c) : d.remaining ≤ c.frameBytes := by
  obtain ⟨htext, hframe, -, -⟩ := DecoderState.wf_iff.1 h
  cases hmode : d.mode with
  | textMode => obtain ⟨hcount, -⟩ := htext hmode; omega
  | awaitingImageBytes => obtain ⟨-, hle, -, -⟩ := hframe hmode; exact hle

/-- Settles O46: `CNT_BITS` is one more than the floor of the logarithm of `FRAME_BYTES`. -/
theorem counterFitsItsWidth : Obligations.CounterFitsItsWidth := by
  intro c d hcfg hwf
  obtain ⟨-, -, -, -, hpos, hbits⟩ := Config.wf_iff.1 hcfg
  rw [hbits, ceilLog2_succ hpos, Nat.add_sub_cancel]
  have hfits : c.frameBytes < 2 ^ (c.frameBytes.log2 + 1) := Nat.lt_log2_self
  exact ⟨(remaining_le_frameBytes hwf).trans_lt hfits, hfits, Nat.log2_self_le (by omega)⟩

end Sys2Proof.Machine
end

section
/-! UTF-8 (30_encoding.md R68, R69). The scanner's state is a row of the table cut in two: the ranges of the bytes read and
the ranges still open. So it splits off the table's characters and nothing else; and a code point, encoded again, gives the
bytes of its character. -/

namespace Sys2Proof.Machine

variable {expect expect' : List ByteRange} {cur ch seg : List Byte} {b : Byte} {chars : List (List Byte)}

/-! ### The table -/

theorem inRange_iff {r : ByteRange} : inRange r b = true ↔ r.1 ≤ b.toNat ∧ b.toNat ≤ r.2 := by
  rw [inRange, Bool.and_eq_true, decide_eq_true_eq, decide_eq_true_eq]

/-- The rows' first ranges stand in increasing order, one behind the other. -/
theorem utf8Table_firsts_increase :
    utf8Table.Pairwise fun row row' => ∀ r ∈ row.head?, ∀ r' ∈ row'.head?, r.2 < r'.1 := by
  decide

theorem not_rowStartsWith_of_before {row row' : List ByteRange}
    (hbefore : ∀ r ∈ row.head?, ∀ r' ∈ row'.head?, r.2 < r'.1) (h : rowStartsWith b row' = true) :
    rowStartsWith b row = false := by
  cases row with
  | nil => rfl
  | cons r rs =>
    cases row' with
    | nil => cases h
    | cons r' rs' =>
      obtain ⟨hle, -⟩ := inRange_iff.1 h
      refine Bool.eq_false_iff.2 fun hr => ?_
      obtain ⟨-, hge⟩ := inRange_iff.1 hr
      have hlt := hbefore r rfl r' rfl
      omega

/-- A first byte finds its own row, for no row before it can start with that byte. -/
theorem find?_row {row : List ByteRange} (hrow : row ∈ utf8Table) (h : rowStartsWith b row = true) :
    utf8Table.find? (rowStartsWith b) = some row := by
  obtain ⟨before, after, htable⟩ := List.append_of_mem hrow
  have hincrease := utf8Table_firsts_increase
  rw [htable, List.pairwise_append] at hincrease
  obtain ⟨-, -, hbefore⟩ := hincrease
  refine List.find?_eq_some_iff_append.2 ⟨h, before, after, htable, fun row' hrow' => ?_⟩
  rw [not_rowStartsWith_of_before (hbefore row' hrow' row List.mem_cons_self) h]
  rfl

/-! ### One byte -/

/-- Inside a character the scanner reads one byte of the next open range. -/
theorem utf8Advance_open {r : ByteRange} {rs : List ByteRange} (h : inRange r b = true) :
    utf8Advance (r :: rs) b = some rs := if_pos h

/-- Where `expect` are the ranges still open after `cur`: between characters, or inside a row of the table whose first
ranges the bytes `cur` lie in. -/
def ScanState (expect : List ByteRange) (cur : List Byte) : Prop :=
  (expect = [] ∧ cur = []) ∨
  (expect ≠ [] ∧ ∃ read, read ++ expect ∈ utf8Table ∧ List.Forall₂ (fun r b => inRange r b = true) read cur)

theorem scanState_start : ScanState [] [] := .inl ⟨rfl, rfl⟩

/-- A byte that is read extends the row read so far. -/
theorem utf8Advance_eq_some (hs : ScanState expect cur) (h : utf8Advance expect b = some expect') :
    ∃ read, read ++ expect' ∈ utf8Table ∧
      List.Forall₂ (fun r b => inRange r b = true) read (cur ++ [b]) := by
  rcases hs with ⟨rfl, rfl⟩ | ⟨hne, read, hrow, hread⟩
  · obtain ⟨row, hfind, rfl⟩ := Option.map_eq_some_iff.1 h
    have hmem := List.mem_of_find?_eq_some hfind
    have hstart := List.find?_some hfind
    cases row with
    | nil => cases hstart
    | cons r rs => exact ⟨[r], hmem, .cons hstart .nil⟩
  · cases expect with
    | nil => exact absurd rfl hne
    | cons r rs =>
      rw [utf8Advance] at h
      split at h
      · next hr =>
        cases h
        refine ⟨read ++ [r], by rwa [List.append_assoc], ?_⟩
        exact List.rel_append hread (.cons hr .nil)
      · cases h

/-! ### Characters -/

/-- The bytes of a character close the ranges they lie in. -/
theorem utf8Scan_rest {rest : List Byte} (h : List.Forall₂ (fun r b => inRange r b = true) expect ch)
    (hne : expect ≠ []) :
    utf8Scan expect cur (ch ++ rest) = (utf8Scan [] [] rest).map ((cur ++ ch) :: ·) := by
  induction h generalizing cur with
  | nil => exact absurd rfl hne
  | @cons r b rs bs hb hbs ih =>
    rw [List.cons_append, utf8Scan, utf8Advance_open hb]
    cases hbs with
    | nil => rfl
    | cons hb' hbs' =>
      refine (ih (List.cons_ne_nil _ _)).trans ?_
      rw [List.append_assoc]
      rfl

/-- A character of the table is split off whole. -/
theorem utf8Scan_char {rest : List Byte} (h : IsUtf8Char ch) :
    utf8Scan [] [] (ch ++ rest) = (utf8Scan [] [] rest).map (ch :: ·) := by
  obtain ⟨row, hrow, hch⟩ := h
  cases hch with
  | nil => simp [utf8Table] at hrow
  | @cons r b rs bs hb hbs =>
    have hstart : utf8Advance [] b = utf8Advance (r :: rs) b := by
      rw [utf8Advance_open hb, utf8Advance, find?_row hrow hb]
      rfl
    calc utf8Scan [] [] (b :: bs ++ rest)
      _ = utf8Scan (r :: rs) [] (b :: bs ++ rest) := by rw [List.cons_append, utf8Scan, utf8Scan, hstart]
      _ = (utf8Scan [] [] rest).map ((b :: bs) :: ·) := utf8Scan_rest (.cons hb hbs) (List.cons_ne_nil _ _)

/-- What the scanner splits off are the bytes, cut into characters of the table. -/
theorem utf8Scan_eq_some (hs : ScanState expect cur) (h : utf8Scan expect cur seg = some chars) :
    cur ++ seg = chars.flatten ∧ ∀ ch ∈ chars, IsUtf8Char ch := by
  induction seg generalizing expect cur chars with
  | nil =>
    rw [utf8Scan] at h
    rcases hs with ⟨rfl, rfl⟩ | ⟨hne, -⟩
    · cases h
      exact ⟨rfl, nofun⟩
    · rw [if_neg (by simpa using hne)] at h
      cases h
  | cons b rest ih =>
    rw [utf8Scan] at h
    split at h
    · cases h
    · next hadv =>
      obtain ⟨row, hrow, hread⟩ := utf8Advance_eq_some hs hadv
      obtain ⟨later, hlater, rfl⟩ := Option.map_eq_some_iff.1 h
      obtain ⟨hrest, hchars⟩ := ih scanState_start hlater
      rw [List.append_nil] at hrow
      refine ⟨?_, List.forall_mem_cons.2 ⟨⟨row, hrow, hread⟩, hchars⟩⟩
      rw [List.flatten_cons, ← hrest, List.nil_append, List.append_assoc]
      rfl
    · next hadv =>
      obtain ⟨read, hrow, hread⟩ := utf8Advance_eq_some hs hadv
      obtain ⟨hrest, hchars⟩ := ih (.inr ⟨List.cons_ne_nil _ _, read, hrow, hread⟩) h
      refine ⟨?_, hchars⟩
      rw [← hrest, List.append_assoc]
      rfl

theorem utf8Split_flatten (h : ∀ ch ∈ chars, IsUtf8Char ch) : utf8Split chars.flatten = some chars := by
  rw [utf8Split]
  induction chars with
  | nil => rfl
  | cons ch chars ih =>
    obtain ⟨hch, hchars⟩ := List.forall_mem_cons.1 h
    rw [List.flatten_cons, utf8Scan_char hch, ih hchars]
    rfl

/-- The split of a segment is its one reading as characters of the table (R68). -/
theorem utf8Split_eq_some_iff :
    utf8Split seg = some chars ↔ seg = chars.flatten ∧ ∀ ch ∈ chars, IsUtf8Char ch := by
  constructor
  · exact utf8Scan_eq_some scanState_start
  · rintro ⟨rfl, hchars⟩
    exact utf8Split_flatten hchars

theorem utf8Valid_iff_split : utf8Valid seg = true ↔ ∃ chars, utf8Split seg = some chars :=
  Option.isSome_iff_exists

/-- Settles O22. -/
theorem utf8ValidIsTableConcatenation : Obligations.Utf8ValidIsTableConcatenation := fun _ =>
  utf8Valid_iff_split.trans (exists_congr fun _ => utf8Split_eq_some_iff)

/-! ### The line feed -/

/-- The ranges after a row's first hold continuation bytes, 0x80 and above. -/
def Continuing (expect : List ByteRange) : Prop := ∀ r ∈ expect, 0x80 ≤ r.1

theorem continuing_tail {row : List ByteRange} (h : row ∈ utf8Table) : Continuing row.tail := by
  have hall : ∀ row ∈ utf8Table, ∀ r ∈ row.tail, 0x80 ≤ r.1 := by decide
  exact hall row h

theorem continuing_utf8Advance (he : Continuing expect) (h : utf8Advance expect b = some expect') :
    Continuing expect' := by
  cases expect with
  | nil =>
    obtain ⟨row, hfind, rfl⟩ := Option.map_eq_some_iff.1 h
    exact continuing_tail (List.mem_of_find?_eq_some hfind)
  | cons r rs =>
    rw [utf8Advance] at h
    split at h
    · cases h
      exact (List.forall_mem_cons.1 he).2
    · cases h

/-- The scanner stops at a line feed inside a character, and between characters reads it as one. -/
theorem utf8Scan_lineFeed (he : Continuing expect) (rest : List Byte) :
    (utf8Scan expect cur (0x0A :: rest)).isSome = (expect.isEmpty && (utf8Scan [] [] rest).isSome) := by
  cases expect with
  | nil =>
    have hadv : utf8Advance [] 0x0A = some [] := by decide
    rw [utf8Scan, hadv, Option.isSome_map]
    rfl
  | cons r rs =>
    have hr := he r List.mem_cons_self
    have hadv : utf8Advance (r :: rs) 0x0A = none := by
      refine if_neg fun h => ?_
      have hle := (inRange_iff.1 h).1
      have hfeed : (0x0A : Byte).toNat = 10 := rfl
      omega
    rw [utf8Scan, hadv]
    rfl

theorem utf8Scan_append_lineFeed (he : Continuing expect) (seg rest : List Byte) :
    (utf8Scan expect cur (seg ++ 0x0A :: rest)).isSome =
      ((utf8Scan expect cur seg).isSome && (utf8Scan [] [] rest).isSome) := by
  induction seg generalizing expect cur with
  | nil =>
    rw [List.nil_append, utf8Scan_lineFeed he, utf8Scan]
    cases expect <;> rfl
  | cons b seg ih =>
    rw [List.cons_append, utf8Scan, utf8Scan]
    cases hadv : utf8Advance expect b with
    | none => rfl
    | some expect' =>
      have he' := continuing_utf8Advance he hadv
      cases expect' with
      | nil => simp only [Option.isSome_map, ih he']
      | cons r rs => exact ih he'

/-- Settles O23: the scan of the first part ends between characters exactly where that part is valid. -/
theorem lineFeedNeverCutsCharacter : Obligations.LineFeedNeverCutsCharacter :=
  fun a b => utf8Scan_append_lineFeed (expect := []) nofun a b

/-! ### Code points -/

/-- A range of continuation bytes. -/
def continuationRange (r : ByteRange) : Bool := 0x80 ≤ r.1 && r.2 ≤ 0xBF

/-- What a row of the table says of a code point: the first byte gives the length, the others continue it, and the code
point needs no fewer bytes. -/
def minimalRow : List ByteRange → Bool
  | [r1] => r1.2 ≤ 0x7F
  | [r1, r2] => 0xC2 ≤ r1.1 && r1.2 ≤ 0xDF && continuationRange r2
  | [r1, r2, r3] =>
    0xE0 ≤ r1.1 && r1.2 ≤ 0xEF && (0xE1 ≤ r1.1 || 0xA0 ≤ r2.1) && continuationRange r2 && continuationRange r3
  | [r1, r2, r3, r4] =>
    0xF0 ≤ r1.1 && r1.2 ≤ 0xF4 && (0xF1 ≤ r1.1 || 0x90 ≤ r2.1) && continuationRange r2 && continuationRange r3 &&
      continuationRange r4
  | _ => false

theorem minimalRow_of_mem : ∀ row ∈ utf8Table, minimalRow row = true := by decide

/-- The bytes of a code point, of the length its value needs: the inverse of `codePoint`. -/
def utf8Encode (n : Nat) : List Byte :=
  if n < 0x80 then [BitVec.ofNat 8 n]
  else if n < 0x800 then [BitVec.ofNat 8 (0xC0 + n / 64), BitVec.ofNat 8 (0x80 + n % 64)]
  else if n < 0x10000 then
    [BitVec.ofNat 8 (0xE0 + n / 4096), BitVec.ofNat 8 (0x80 + n / 64 % 64), BitVec.ofNat 8 (0x80 + n % 64)]
  else
    [BitVec.ofNat 8 (0xF0 + n / 262144), BitVec.ofNat 8 (0x80 + n / 4096 % 64), BitVec.ofNat 8 (0x80 + n / 64 % 64),
      BitVec.ofNat 8 (0x80 + n % 64)]

theorem ofNat_eq_byte {n : Nat} (h : n = b.toNat) : BitVec.ofNat 8 n = b := by
  rw [h, BitVec.ofNat_toNat, BitVec.setWidth_eq]

/-- A character has a code point, and the code point's bytes are the character. -/
theorem utf8Encode_codePoint (h : IsUtf8Char ch) : ∃ n, codePoint ch = some n ∧ utf8Encode n = ch := by
  obtain ⟨row, hrow, hch⟩ := h
  have hmin := minimalRow_of_mem row hrow
  match row, ch, hch with
  | [r1], [b1], .cons h1 .nil =>
    simp only [minimalRow, inRange_iff, decide_eq_true_eq] at hmin h1
    refine ⟨_, rfl, ?_⟩
    rw [utf8Encode, if_pos (by omega), ofNat_eq_byte rfl]
  | [r1, r2], [b1, b2], .cons h1 (.cons h2 .nil) =>
    simp only [minimalRow, continuationRange, inRange_iff, Bool.and_eq_true, decide_eq_true_eq] at hmin h1 h2
    refine ⟨_, rfl, ?_⟩
    rw [utf8Encode, if_neg (by omega), if_pos (by omega), ofNat_eq_byte (b := b1) (by omega),
      ofNat_eq_byte (b := b2) (by omega)]
  | [r1, r2, r3], [b1, b2, b3], .cons h1 (.cons h2 (.cons h3 .nil)) =>
    simp only [minimalRow, continuationRange, inRange_iff, Bool.and_eq_true, Bool.or_eq_true, decide_eq_true_eq]
      at hmin h1 h2 h3
    refine ⟨_, rfl, ?_⟩
    rw [utf8Encode, if_neg (by omega), if_neg (by omega), if_pos (by omega), ofNat_eq_byte (b := b1) (by omega),
      ofNat_eq_byte (b := b2) (by omega), ofNat_eq_byte (b := b3) (by omega)]
  | [r1, r2, r3, r4], [b1, b2, b3, b4], .cons h1 (.cons h2 (.cons h3 (.cons h4 .nil))) =>
    simp only [minimalRow, continuationRange, inRange_iff, Bool.and_eq_true, Bool.or_eq_true, decide_eq_true_eq]
      at hmin h1 h2 h3 h4
    refine ⟨_, rfl, ?_⟩
    rw [utf8Encode, if_neg (by omega), if_neg (by omega), if_neg (by omega), ofNat_eq_byte (b := b1) (by omega),
      ofNat_eq_byte (b := b2) (by omega), ofNat_eq_byte (b := b3) (by omega), ofNat_eq_byte (b := b4) (by omega)]

/-- Characters have code points, one each, and the code points' bytes are the characters. -/
theorem mapM_codePoint (h : ∀ ch ∈ chars, IsUtf8Char ch) :
    ∃ ps, chars.mapM codePoint = some ps ∧ ps.map utf8Encode = chars := by
  induction chars with
  | nil => exact ⟨[], rfl, rfl⟩
  | cons ch chars ih =>
    obtain ⟨hch, hchars⟩ := List.forall_mem_cons.1 h
    obtain ⟨n, hn, hencode⟩ := utf8Encode_codePoint hch
    obtain ⟨ps, hps, hmap⟩ := ih hchars
    refine ⟨n :: ps, ?_, by rw [List.map_cons, hencode, hmap]⟩
    rw [List.mapM_cons, hn, hps]
    rfl

/-- A valid segment has code points, and is their bytes. -/
theorem codePoints_of_valid (h : utf8Valid seg = true) :
    ∃ ps, codePoints seg = some ps ∧ ps.flatMap utf8Encode = seg := by
  obtain ⟨chars, hsplit⟩ := utf8Valid_iff_split.1 h
  obtain ⟨rfl, hchars⟩ := utf8Split_eq_some_iff.1 hsplit
  obtain ⟨ps, hps, hmap⟩ := mapM_codePoint hchars
  refine ⟨ps, ?_, by rw [List.flatMap_def, hmap]⟩
  rw [codePoints, hsplit, Option.bind_some, hps]

theorem flatMap_utf8Encode_of_codePoints {ps : List Nat} (h : codePoints seg = some ps) :
    ps.flatMap utf8Encode = seg := by
  obtain ⟨chars, hsplit, -⟩ := Option.bind_eq_some_iff.1 h
  obtain ⟨ps', hps', hencode⟩ := codePoints_of_valid (utf8Valid_iff_split.2 ⟨chars, hsplit⟩)
  obtain rfl : ps = ps' := Option.some.inj (h.symm.trans hps')
  exact hencode

/-- Settles O24: the code points determine the bytes, being encoded as them. -/
theorem codePointsAreOneToOne : Obligations.CodePointsAreOneToOne := by
  constructor
  · intro seg hvalid
    obtain ⟨ps, hps, -⟩ := codePoints_of_valid hvalid
    exact ⟨ps, hps⟩
  · intro a b ps ha hb
    exact (flatMap_utf8Encode_of_codePoints ha).symm.trans (flatMap_utf8Encode_of_codePoints hb)

end Sys2Proof.Machine
end

section
/-! The two readings of the marker test (30_encoding.md R65; decision D4). -/

namespace Sys2Proof.Machine

variable {c : Config} {seg : List Byte}

theorem isMarker_of_prefixMatch (h : c.markerMatch = .prefixMatch) : isMarker c seg = true ↔ c.marker <+: seg := by
  simp only [isMarker, h, Bool.and_eq_true, decide_eq_true_eq, beq_iff_eq]
  rw [List.prefix_iff_eq_take]
  constructor
  · rintro ⟨-, htake⟩
    exact htake.symm
  · intro htake
    refine ⟨?_, htake.symm⟩
    calc c.marker.length
      _ = (seg.take c.marker.length).length := congrArg List.length htake
      _ ≤ seg.length := List.length_take_le' _ _

theorem isMarker_of_exactMatch (h : c.markerMatch = .exactMatch) : isMarker c seg = true ↔ seg = c.marker := by
  simp only [isMarker, h, beq_iff_eq]

/-- A list that starts with another one and is not it goes on by at least one element. -/
theorem proper_prefix_iff {marker : List Byte} :
    (marker <+: seg ∧ seg ≠ marker) ↔ ∃ first rest, seg = marker ++ first :: rest := by
  constructor
  · rintro ⟨⟨tail, rfl⟩, hne⟩
    cases tail with
    | nil => exact absurd (List.append_nil marker) hne
    | cons first rest => exact ⟨first, rest, rfl⟩
  · rintro ⟨first, rest, rfl⟩
    exact ⟨List.prefix_append _ _, by simp⟩

/-- Settles O25: a line that is the marker starts with it, so the readings differ where only the first holds. -/
theorem markerReadingsDifferOnLongerLines : Obligations.MarkerReadingsDifferOnLongerLines := by
  intro c seg
  refine ⟨fun h => (isMarker_of_prefixMatch h).trans (exists_congr fun _ => eq_comm), isMarker_of_exactMatch, ?_⟩
  have hprefix : isMarker { c with markerMatch := .prefixMatch } seg = true ↔ c.marker <+: seg :=
    isMarker_of_prefixMatch rfl
  have hexact : isMarker { c with markerMatch := .exactMatch } seg = true ↔ seg = c.marker :=
    isMarker_of_exactMatch rfl
  rw [← proper_prefix_iff, Ne, Bool.eq_iff_iff, hprefix, hexact]
  constructor
  · intro hdiffer
    have hne : seg ≠ c.marker := by
      rintro rfl
      exact hdiffer (iff_of_true List.prefix_rfl rfl)
    exact ⟨by_contra fun hno => hdiffer (iff_of_false hno hne), hne⟩
  · rintro ⟨hstarts, hne⟩ hsame
    exact hne (hsame.1 hstarts)

end Sys2Proof.Machine
end
